-- ==== Sys2Proof/Word.lean ====
section
/-! DEFINITION. The word types of the core (spec/00_scope.md R5, R7, R8; spec/30_encoding.md R82, R83). -/

namespace Sys2Proof

/-- A memory byte, a general register, a timer, an immediate `nn` (R5). -/
abbrev Byte := BitVec 8

/-- An instruction word, PC, I, a stack entry, a fault-record field (R5). -/
abbrev Word := BitVec 16

/-- The 12-bit unsigned address `nnn` of format A (R83). -/
abbrev Addr := BitVec 12

/-- A register number: the field `x` or `y`, which names `V[0]` to `V[15]` (R83: every value is valid). -/
abbrev Reg := Fin 16

/-- The row count `n` of `Dxyn`, 0 to 15 (R83). -/
abbrev RowCount := Fin 16

/-- A key of the keypad, 0x0 to 0xF (R30). -/
abbrev Key := Fin 16

end Sys2Proof
end

