-- ==== Sys2Proof/Syntax.lean ====
section
/-! DEFINITION. The instructions: one constructor per row of spec/opcode_table.json, in the order of
spec/30_encoding.md R84. Every field is exactly as wide as the encoding makes it, so every value of a
field is one the hardware can meet (R83, R90). -/

namespace Sys2Proof

inductive Instr where
  /-- 00E0 CLS (R190). -/
  | cls
  /-- 00EE RET (R122). -/
  | ret
  /-- 1nnn JP nnn (R120). -/
  | jp (nnn : Addr)
  /-- 2nnn CALL nnn (R121). -/
  | call (nnn : Addr)
  /-- 3xnn SE Vx, nn (R123). -/
  | seImm (x : Reg) (nn : Byte)
  /-- 4xnn SNE Vx, nn (R124). -/
  | sneImm (x : Reg) (nn : Byte)
  /-- 5xy0 SE Vx, Vy (R125). -/
  | seReg (x y : Reg)
  /-- 6xnn LD Vx, nn (R144). -/
  | ldImm (x : Reg) (nn : Byte)
  /-- 7xnn ADD Vx, nn (R145). -/
  | addImm (x : Reg) (nn : Byte)
  /-- 8xy0 LD Vx, Vy (R146). -/
  | ldReg (x y : Reg)
  /-- 8xy1 OR Vx, Vy (R147). -/
  | orReg (x y : Reg)
  /-- 8xy2 AND Vx, Vy (R148). -/
  | andReg (x y : Reg)
  /-- 8xy3 XOR Vx, Vy (R149). -/
  | xorReg (x y : Reg)
  /-- 8xy4 ADD Vx, Vy (R150). -/
  | addReg (x y : Reg)
  /-- 8xy5 SUB Vx, Vy (R151). -/
  | sub (x y : Reg)
  /-- 8xy6 SHR Vx, Vy (R153). -/
  | shr (x y : Reg)
  /-- 8xy7 SUBN Vx, Vy (R154). -/
  | subn (x y : Reg)
  /-- 8xyE SHL Vx, Vy (R155). -/
  | shl (x y : Reg)
  /-- 9xy0 SNE Vx, Vy (R126). -/
  | sneReg (x y : Reg)
  /-- Annn LD I, nnn (R170). -/
  | ldI (nnn : Addr)
  /-- Bnnn JP V0, nnn (R127). -/
  | jpV0 (nnn : Addr)
  /-- Cxnn RND Vx, nn (R156). -/
  | rnd (x : Reg) (nn : Byte)
  /-- Dxyn DRW Vx, Vy, n (R191). -/
  | drw (x y : Reg) (n : RowCount)
  /-- Ex9E SKP Vx (R220). -/
  | skp (x : Reg)
  /-- ExA1 SKNP Vx (R221). -/
  | sknp (x : Reg)
  /-- Fx07 LD Vx, DT (R210). -/
  | ldVxDt (x : Reg)
  /-- Fx0A LD Vx, K (R222). -/
  | ldVxK (x : Reg)
  /-- Fx15 LD DT, Vx (R211). -/
  | ldDtVx (x : Reg)
  /-- Fx18 LD ST, Vx (R212). -/
  | ldStVx (x : Reg)
  /-- Fx1E ADD I, Vx (R171). -/
  | addI (x : Reg)
  /-- Fx29 LD F, Vx (R172). -/
  | ldF (x : Reg)
  /-- Fx33 LD B, Vx (R173). -/
  | ldB (x : Reg)
  /-- Fx55 LD [I], Vx (R174). -/
  | storeRegs (x : Reg)
  /-- Fx65 LD Vx, [I] (R175). -/
  | loadRegs (x : Reg)
deriving DecidableEq, Repr

end Sys2Proof
end

