-- ==== Sys2Proof/WellFormed.lean ====
section
/-! DEFINITION. What a well-formed input of the core is.
Of an instruction there is nothing left to check: R83 and R90 make every value of every field legal, and
the field types admit nothing else. What CAN be ill formed is a ROM (spec/20_memory.md R60, R61) and a
placement of the font (spec/00_scope.md R6). -/

namespace Sys2Proof

/-- Every instruction is well formed: "every value 0 to 15 is a valid register" and "all 4096 words of each
are decoded, whatever their other bits" (R83, R90). Written per constructor, so that a constructor added
later has to say what it asks for. -/
def Instr.wellFormed : Instr → Bool
  | .cls | .ret => true
  | .jp _ | .call _ | .ldI _ | .jpV0 _ => true
  | .seImm _ _ | .sneImm _ _ | .ldImm _ _ | .addImm _ _ | .rnd _ _ => true
  | .seReg _ _ | .sneReg _ _ | .ldReg _ _ | .orReg _ _ | .andReg _ _ | .xorReg _ _ => true
  | .addReg _ _ | .sub _ _ | .shr _ _ | .subn _ _ | .shl _ _ => true
  | .drw _ _ _ => true
  | .skp _ | .sknp _ | .ldVxDt _ | .ldVxK _ | .ldDtVx _ | .ldStVx _ => true
  | .addI _ | .ldF _ | .ldB _ | .storeRegs _ | .loadRegs _ => true

/-- The longest ROM: 4096 - 0x200 bytes (R5, R60). -/
def maxRomLength : Nat := 3584

/-- A ROM that LOAD_ROM accepts (R60, R61). -/
def romWellFormed (bytes : List Byte) : Bool := decide (bytes.length ≤ maxRomLength)

/-- The constraint on FONT_BASE (R6). -/
def fontBaseOk (base : Nat) : Bool := decide (base + 80 ≤ 0x200)

end Sys2Proof
end

