-- ==== Sys2Proof/Decode.lean ====
section
/-! DEFINITION. The decoder and, after it, the encoder (spec/30_encoding.md R80 to R92), and the opcode map
of R84 as a table of masks and matches. -/

namespace Sys2Proof

/-! ## Fields (R82) -/

/-- `op = w[15:12]`, nibble0, which selects the family (R82). -/
def opField (w : Word) : BitVec 4 := w.extractLsb' 12 4

/-- `x = w[11:8]` (R82). -/
def xField (w : Word) : Reg := (w.extractLsb' 8 4).toFin

/-- `y = w[7:4]` (R82). -/
def yField (w : Word) : Reg := (w.extractLsb' 4 4).toFin

/-- `n = w[3:0]` (R82). -/
def nField (w : Word) : RowCount := (w.extractLsb' 0 4).toFin

/-- `nn = w[7:0]` (R82). -/
def nnField (w : Word) : Byte := w.extractLsb' 0 8

/-- `nnn = w[11:0]` (R82). -/
def nnnField (w : Word) : Addr := w.extractLsb' 0 12

/-! ## The decoder (R84 to R92) -/

/-- Why a word or a byte sequence is no instruction.
`unknownOpcode w`: `w` matches no row of R84; the core runs it as a no-op (R85, R109).
`tooFewBytes`: fewer than the two bytes of a word (R80); a fetch never meets it, since R104 checks the range first. -/
inductive DecodeReject where
  | unknownOpcode (w : Word)
  | tooFewBytes
deriving DecidableEq, Repr

/-- Family 0 is selected by the low 12 bits (R86). -/
def decodeFamily0 (w : Word) : Except DecodeReject Instr :=
  if nnnField w = 0x0E0 then .ok .cls
  else if nnnField w = 0x0EE then .ok .ret
  else .error (.unknownOpcode w)

/-- Family 5: the low nibble must be 0 (R87). -/
def decodeFamily5 (w : Word) : Except DecodeReject Instr :=
  if (nField w).val = 0 then .ok (.seReg (xField w) (yField w)) else .error (.unknownOpcode w)

/-- Family 9: the low nibble must be 0 (R87). -/
def decodeFamily9 (w : Word) : Except DecodeReject Instr :=
  if (nField w).val = 0 then .ok (.sneReg (xField w) (yField w)) else .error (.unknownOpcode w)

/-- Family 8 is selected by the low nibble (R88). -/
def decodeFamily8 (w : Word) : Except DecodeReject Instr :=
  match (nField w).val with
  | 0x0 => .ok (.ldReg (xField w) (yField w))
  | 0x1 => .ok (.orReg (xField w) (yField w))
  | 0x2 => .ok (.andReg (xField w) (yField w))
  | 0x3 => .ok (.xorReg (xField w) (yField w))
  | 0x4 => .ok (.addReg (xField w) (yField w))
  | 0x5 => .ok (.sub (xField w) (yField w))
  | 0x6 => .ok (.shr (xField w) (yField w))
  | 0x7 => .ok (.subn (xField w) (yField w))
  | 0xE => .ok (.shl (xField w) (yField w))
  | _ => .error (.unknownOpcode w)

/-- Family E is selected by the low byte (R89). -/
def decodeFamilyE (w : Word) : Except DecodeReject Instr :=
  if nnField w = 0x9E then .ok (.skp (xField w))
  else if nnField w = 0xA1 then .ok (.sknp (xField w))
  else .error (.unknownOpcode w)

/-- Family F is selected by the low byte (R89). -/
def decodeFamilyF (w : Word) : Except DecodeReject Instr :=
  if nnField w = 0x07 then .ok (.ldVxDt (xField w))
  else if nnField w = 0x0A then .ok (.ldVxK (xField w))
  else if nnField w = 0x15 then .ok (.ldDtVx (xField w))
  else if nnField w = 0x18 then .ok (.ldStVx (xField w))
  else if nnField w = 0x1E then .ok (.addI (xField w))
  else if nnField w = 0x29 then .ok (.ldF (xField w))
  else if nnField w = 0x33 then .ok (.ldB (xField w))
  else if nnField w = 0x55 then .ok (.storeRegs (xField w))
  else if nnField w = 0x65 then .ok (.loadRegs (xField w))
  else .error (.unknownOpcode w)

/-- The decoder: total and stateless, one of the 34 instructions or UNKNOWN(w) (R92).
Nibble0 selects the family; families 1, 2, 3, 4, 6, 7, A, B, C and D need nothing more (R90). -/
def decode (w : Word) : Except DecodeReject Instr :=
  match (opField w).toNat with
  | 0x0 => decodeFamily0 w
  | 0x1 => .ok (.jp (nnnField w))
  | 0x2 => .ok (.call (nnnField w))
  | 0x3 => .ok (.seImm (xField w) (nnField w))
  | 0x4 => .ok (.sneImm (xField w) (nnField w))
  | 0x5 => decodeFamily5 w
  | 0x6 => .ok (.ldImm (xField w) (nnField w))
  | 0x7 => .ok (.addImm (xField w) (nnField w))
  | 0x8 => decodeFamily8 w
  | 0x9 => decodeFamily9 w
  | 0xA => .ok (.ldI (nnnField w))
  | 0xB => .ok (.jpV0 (nnnField w))
  | 0xC => .ok (.rnd (xField w) (nnField w))
  | 0xD => .ok (.drw (xField w) (yField w) (nField w))
  | 0xE => decodeFamilyE w
  | _ => decodeFamilyF w

/-- Two bytes as a word, the byte at the lower address in bits 15:8 (R52; `a ++ b` of R7). -/
def bigEndian (hi lo : Byte) : Word := hi ++ lo

/-- The byte that the lower address holds: bits 15:8 (R52). -/
def highByte (w : Word) : Byte := w.extractLsb' 8 8

/-- The byte that the higher address holds: bits 7:0 (R52). -/
def lowByte (w : Word) : Byte := w.extractLsb' 0 8

/-- The decoder on a byte sequence: the instruction at its front and the bytes after it (R52, R80). -/
def decodeBytes : List Byte → Except DecodeReject (Instr × List Byte)
  | hi :: lo :: rest =>
    match decode (bigEndian hi lo) with
    | .ok i => .ok (i, rest)
    | .error e => .error e
  | _ => .error .tooFewBytes

/-! ## The encoder (R81, R84) -/

/-- Format A: family and address (R81). -/
def formA (op : BitVec 4) (nnn : Addr) : Word := op ++ nnn

/-- Format XB: family, register and byte (R81). -/
def formXB (op : BitVec 4) (x : Reg) (nn : Byte) : Word := formA op (BitVec.ofFin (w := 4) x ++ nn)

/-- Format XYN: family, two registers and a nibble (R81). -/
def formXYN (op : BitVec 4) (x y : Reg) (n : RowCount) : Word :=
  formXB op x (BitVec.ofFin (w := 4) y ++ BitVec.ofFin (w := 4) n)

/-- The word of an instruction (R81, and the pattern column of R84). -/
def encode : Instr → Word
  | .cls => 0x00E0
  | .ret => 0x00EE
  | .jp nnn => formA 0x1 nnn
  | .call nnn => formA 0x2 nnn
  | .seImm x nn => formXB 0x3 x nn
  | .sneImm x nn => formXB 0x4 x nn
  | .seReg x y => formXYN 0x5 x y 0x0
  | .ldImm x nn => formXB 0x6 x nn
  | .addImm x nn => formXB 0x7 x nn
  | .ldReg x y => formXYN 0x8 x y 0x0
  | .orReg x y => formXYN 0x8 x y 0x1
  | .andReg x y => formXYN 0x8 x y 0x2
  | .xorReg x y => formXYN 0x8 x y 0x3
  | .addReg x y => formXYN 0x8 x y 0x4
  | .sub x y => formXYN 0x8 x y 0x5
  | .shr x y => formXYN 0x8 x y 0x6
  | .subn x y => formXYN 0x8 x y 0x7
  | .shl x y => formXYN 0x8 x y 0xE
  | .sneReg x y => formXYN 0x9 x y 0x0
  | .ldI nnn => formA 0xA nnn
  | .jpV0 nnn => formA 0xB nnn
  | .rnd x nn => formXB 0xC x nn
  | .drw x y n => formXYN 0xD x y n
  | .skp x => formXB 0xE x 0x9E
  | .sknp x => formXB 0xE x 0xA1
  | .ldVxDt x => formXB 0xF x 0x07
  | .ldVxK x => formXB 0xF x 0x0A
  | .ldDtVx x => formXB 0xF x 0x15
  | .ldStVx x => formXB 0xF x 0x18
  | .addI x => formXB 0xF x 0x1E
  | .ldF x => formXB 0xF x 0x29
  | .ldB x => formXB 0xF x 0x33
  | .storeRegs x => formXB 0xF x 0x55
  | .loadRegs x => formXB 0xF x 0x65

/-- The bytes of an instruction in the order of their addresses (R52, R80). -/
def encodeBytes (i : Instr) : List Byte := [highByte (encode i), lowByte (encode i)]

/-! ## The opcode map as a table (R84, R92) -/

/-- One row of R84: `w` matches it when `w AND mask = bits`, and then decodes to `build w`. -/
structure OpcodeRow where
  bits : Word
  mask : Word
  build : Word → Instr

/-- `w` matches the row (R84). -/
def OpcodeRow.matches (r : OpcodeRow) (w : Word) : Bool := decide (w &&& r.mask = r.bits)

def rowsControl : List OpcodeRow :=
  [⟨0x00E0, 0xFFFF, fun _ => .cls⟩,
   ⟨0x00EE, 0xFFFF, fun _ => .ret⟩,
   ⟨0x1000, 0xF000, fun w => .jp (nnnField w)⟩,
   ⟨0x2000, 0xF000, fun w => .call (nnnField w)⟩,
   ⟨0x3000, 0xF000, fun w => .seImm (xField w) (nnField w)⟩,
   ⟨0x4000, 0xF000, fun w => .sneImm (xField w) (nnField w)⟩,
   ⟨0x5000, 0xF00F, fun w => .seReg (xField w) (yField w)⟩]

def rowsAlu : List OpcodeRow :=
  [⟨0x6000, 0xF000, fun w => .ldImm (xField w) (nnField w)⟩,
   ⟨0x7000, 0xF000, fun w => .addImm (xField w) (nnField w)⟩,
   ⟨0x8000, 0xF00F, fun w => .ldReg (xField w) (yField w)⟩,
   ⟨0x8001, 0xF00F, fun w => .orReg (xField w) (yField w)⟩,
   ⟨0x8002, 0xF00F, fun w => .andReg (xField w) (yField w)⟩,
   ⟨0x8003, 0xF00F, fun w => .xorReg (xField w) (yField w)⟩,
   ⟨0x8004, 0xF00F, fun w => .addReg (xField w) (yField w)⟩,
   ⟨0x8005, 0xF00F, fun w => .sub (xField w) (yField w)⟩,
   ⟨0x8006, 0xF00F, fun w => .shr (xField w) (yField w)⟩,
   ⟨0x8007, 0xF00F, fun w => .subn (xField w) (yField w)⟩,
   ⟨0x800E, 0xF00F, fun w => .shl (xField w) (yField w)⟩]

def rowsMiddle : List OpcodeRow :=
  [⟨0x9000, 0xF00F, fun w => .sneReg (xField w) (yField w)⟩,
   ⟨0xA000, 0xF000, fun w => .ldI (nnnField w)⟩,
   ⟨0xB000, 0xF000, fun w => .jpV0 (nnnField w)⟩,
   ⟨0xC000, 0xF000, fun w => .rnd (xField w) (nnField w)⟩,
   ⟨0xD000, 0xF000, fun w => .drw (xField w) (yField w) (nField w)⟩]

def rowsEF : List OpcodeRow :=
  [⟨0xE09E, 0xF0FF, fun w => .skp (xField w)⟩,
   ⟨0xE0A1, 0xF0FF, fun w => .sknp (xField w)⟩,
   ⟨0xF007, 0xF0FF, fun w => .ldVxDt (xField w)⟩,
   ⟨0xF00A, 0xF0FF, fun w => .ldVxK (xField w)⟩,
   ⟨0xF015, 0xF0FF, fun w => .ldDtVx (xField w)⟩,
   ⟨0xF018, 0xF0FF, fun w => .ldStVx (xField w)⟩,
   ⟨0xF01E, 0xF0FF, fun w => .addI (xField w)⟩,
   ⟨0xF029, 0xF0FF, fun w => .ldF (xField w)⟩,
   ⟨0xF033, 0xF0FF, fun w => .ldB (xField w)⟩,
   ⟨0xF055, 0xF0FF, fun w => .storeRegs (xField w)⟩,
   ⟨0xF065, 0xF0FF, fun w => .loadRegs (xField w)⟩]

/-- The 34 rows of R84, in its order. -/
def opcodeTable : List OpcodeRow := rowsControl ++ rowsAlu ++ rowsMiddle ++ rowsEF

/-- `Decode(w)` as R92 writes it: the first row that matches, else UNKNOWN(w).
The machine runs `decode`; that the two agree on every word is a claim. -/
def decodeByTable (w : Word) : Except DecodeReject Instr :=
  match opcodeTable.find? (fun r => r.matches w) with
  | some r => .ok (r.build w)
  | none => .error (.unknownOpcode w)

/-! ## The host's question about a row -/

/-- What the decoder reads from an instruction whose bits are `w`, numbered as spec/opcode_table.json numbers
them: one 16-bit word, of which the table gives `nbits` bits and every other bit is 0; its high byte lies at
the lower address (R52). -/
def decodeTableWord (nbits w : Nat) : Option Instr :=
  let word : Word := BitVec.ofNat 16 (w % 2 ^ nbits)
  match decodeBytes [highByte word, lowByte word] with
  | .ok (i, _) => some i
  | .error _ => none

end Sys2Proof
end

