-- ==== Sys2Proof/Config.lean ====
section
/-! DEFINITION. The core's parameters (spec/00_scope.md R6; spec/10_state.md R34): the OPEN ones are
uninterpreted constants, so that whatever is proved holds of every value; the two option points are data,
an argument that the machine takes with its state. -/

namespace Sys2Proof.Config

/-- FONT_BASE (R6, R56), OPEN.
The type carries the spec's constraint `FONT_BASE + 80 ≤ 0x200`: the largest value is 0x200 - 80 = 432.
Log entry 4. -/
opaque fontBase : Fin 433

/-- FONT_DATA (R6, R57), OPEN: 80 glyph bytes.
Log entry 4. -/
opaque fontData : Vector Byte 80

/-- What KEY_SELECT (R6, R222) is made from, OPEN: a number for each set of pressed keys.
`Sys2Proof.Machine.keySelect` takes the pressed key at that position, counted round.
Every function from a non-empty set of keys to a member of it arises so.
Log entry 3. -/
opaque keyChoice : Vector Bool 16 → Nat

/-- The free 8-bit draws of RND (R6, R12), under no law: draw number `k`.
Log entry 2. -/
opaque rnd : Nat → Byte

/-- The values of the option point SHIFT_SRC (R6, R152). -/
inductive ShiftSrc where
  | vy
  | vx
deriving DecidableEq, Repr

/-- The values of the option point FONT_SCALE (R6, R172): 1 or 5. -/
inductive FontScale where
  | one
  | five
deriving DecidableEq, Repr

/-- The option points together: the argument a core is built with (R6, R34).
Log entry 5. -/
structure Options where
  shiftSrc : ShiftSrc
  fontScale : FontScale
deriving DecidableEq, Repr

/-- The normative core: `SHIFT_SRC = VY` and `FONT_SCALE = 1` (R6). -/
def Options.normative : Options := { shiftSrc := .vy, fontScale := .one }

/-- The INFORMATIVE default of FONT_DATA (R57's table), from outside the source.
The model never uses it; a claim about glyph shapes takes `fontData = conventionalFont` as a premise. -/
def conventionalFont : Vector Byte 80 :=
  (#v[0xF0, 0x90, 0x90, 0x90, 0xF0,  0x20, 0x60, 0x20, 0x20, 0x70,
     0xF0, 0x10, 0xF0, 0x80, 0xF0,  0xF0, 0x10, 0xF0, 0x10, 0xF0] : Vector Byte 20)
  ++ (#v[0x90, 0x90, 0xF0, 0x10, 0x10,  0xF0, 0x80, 0xF0, 0x10, 0xF0,
     0xF0, 0x80, 0xF0, 0x90, 0xF0,  0xF0, 0x10, 0x20, 0x40, 0x40] : Vector Byte 20)
  ++ (#v[0xF0, 0x90, 0xF0, 0x90, 0xF0,  0xF0, 0x90, 0xF0, 0x10, 0xF0,
     0xF0, 0x90, 0xF0, 0x90, 0x90,  0xE0, 0x90, 0xE0, 0x90, 0xE0] : Vector Byte 20)
  ++ (#v[0xF0, 0x80, 0x80, 0x80, 0xF0,  0xE0, 0x90, 0x90, 0x90, 0xE0,
     0xF0, 0x80, 0xF0, 0x80, 0xF0,  0xF0, 0x80, 0xF0, 0x80, 0x80] : Vector Byte 20)

end Sys2Proof.Config
end

