-- ==== Sys2Proof/Machine/State.lean ====
section
/-! DEFINITION. The architectural state of the core (spec/10_state.md R20 to R37), its reset value, and the
reasons a step could stop. -/

namespace Sys2Proof.Machine

/-- FAULT_CODE (R33, R241).
Its legal values are exactly these six; codes 6 and 7 never occur (log entry 8).
`FaultCode.toBits` of Machine/Flags.lean gives the 3-bit numbers. -/
inductive FaultCode where
  /-- 0: no fault; the reset value. -/
  | none
  /-- 1: `2nnn` executed with SP = 16 (R121). -/
  | stackOverflow
  /-- 2: `00EE` executed with SP = 0 (R122). -/
  | stackUnderflow
  /-- 3: PC > 0xFFE at the start of a step (R104). -/
  | fetchRange
  /-- 4: an I-derived data address above 0xFFF (R59). -/
  | memRange
  /-- 5: a key number above 15 (R220, R221). -/
  | keyRange
deriving DecidableEq, Repr

/-- MEM (R31, R50): the bytes that differ from the reset contents, as (address, byte) pairs.
The canonical form, what an unlisted address reads as, and the operations are in Machine/Ops.lean. -/
abbrev Memory := List Host.Cell

/-- FB (R13, R29): 32 rows of 64 one-bit pixels; bit `px` of row `py` is `FB[px, py]` (log entry 9). -/
abbrev Framebuffer := Vector (BitVec 64) 32

/-- The state vector of R20, and the model's own three fields: two for the RND input (log entry 2), and the option
points, the argument of R6 that every operation of the machine gets with its state (log entry 5). -/
structure State where
  /-- MEM (R31). -/
  mem : Memory
  /-- V0 to VF (R21, R22). -/
  v : Vector Byte 16
  /-- The index register I, 16 bits (R23). -/
  i : Word
  /-- The program counter PC, 16 bits (R24). -/
  pc : Word
  /-- The stack pointer SP, 0 to 16 (R25; log entry 7). -/
  sp : Fin 17
  /-- STACK (R26). -/
  stack : Vector Word 16
  /-- The delay timer DT (R27). -/
  dt : Byte
  /-- The sound timer ST (R28). -/
  st : Byte
  /-- FB (R29). -/
  fb : Framebuffer
  /-- KEY (R30). -/
  key : Vector Bool 16
  /-- FAULT_CODE (R33). -/
  faultCode : FaultCode
  /-- FAULT_PC (R33). -/
  faultPc : Word
  /-- FAULT_WORD (R33). -/
  faultWord : Word
  /-- The model's own: the RND input that the next executed `Cxnn` reads, the argument `rnd` of STEP (R12, R101). -/
  rnd : Byte
  /-- The model's own: how many draws of `Config.rnd` have been used (log entry 2). -/
  draws : Nat
  /-- The model's own: SHIFT_SRC and FONT_SCALE, a parameter of the core that no instruction and no command changes
  (R6, R34; log entry 5). -/
  options : Config.Options
deriving DecidableEq, Repr

/-- The state after RESET and at power-on (R36, R37).
Memory lists nothing: an unlisted address reads as the reset contents, the font included.
It is the state of the normative core (R6). -/
def State.reset : State where
  mem := []
  v := Vector.replicate 16 0
  i := 0
  pc := 0x0200
  sp := 0
  stack := Vector.replicate 16 0
  dt := 0
  st := 0
  fb := Vector.replicate 32 0
  key := Vector.replicate 16 false
  faultCode := .none
  faultPc := 0
  faultWord := 0
  rnd := Config.rnd 0
  draws := 1
  options := Config.Options.normative

/-- The reasons for which a step of the MODEL would stop with a fault: there are none.
Every abnormal event of the spec has an effect that the spec gives: a fault writes the fault register and
the machine stays at the faulting word (R107, R244), a halted STEP changes nothing (R103), an unknown word is
a no-op (R109).
Each of them is therefore a next state (log entry 6); safe or unsafe does not arise. -/
inductive Fault where
deriving DecidableEq, Repr

/-- The reasons for which the model would have no meaning to give. -/
inductive Refusal where
  /-- The instruction has no meaning yet; only an arm of `exec` could answer so, and none does.
  Safe: a refused run proves nothing about the hardware. -/
  | notModelled (mnemonic : String)
deriving DecidableEq, Repr

end Sys2Proof.Machine
end

