-- ==== Sys2Proof/Machine/Flags.lean ====
section
/-! DEFINITION. The flag computations (spec/42_alu.md R140; spec/10_state.md R22) and the numbers of the
fault codes (spec/60_exceptions.md R241). -/

namespace Sys2Proof.Machine

/-- A flag as the byte VF receives: "each writes 0 or 1 to the whole 8-bit register" (R22). -/
def flagByte (f : Bool) : Byte := if f then 1 else 0

/-- The carry of `8xy4`: the sum over the integers is above 255 (R140, R150). -/
def carryFlag (a b : Byte) : Bool := decide (a.toNat + b.toNat > 255)

/-- The "no borrow" of `8xy5` and `8xy7`: minuend ≥ subtrahend over the integers (R140, R151, R154). -/
def noBorrowFlag (minuend subtrahend : Byte) : Bool := decide (minuend.toNat ≥ subtrahend.toNat)

/-- The bit that `8xy6` shifts out: bit 0 (R153). -/
def shiftedOutLow (s : Byte) : Bool := s.getLsbD 0

/-- The bit that `8xyE` shifts out: bit 7 (R155). -/
def shiftedOutHigh (s : Byte) : Bool := s.getLsbD 7

/-- The 3-bit number of a fault code (R33, R241). -/
def FaultCode.toBits : FaultCode → BitVec 3
  | .none => 0
  | .stackOverflow => 1
  | .stackUnderflow => 2
  | .fetchRange => 3
  | .memRange => 4
  | .keyRange => 5

end Sys2Proof.Machine
end

