-- ==== Sys2Proof/Machine/Ops.lean ====
section
/-! DEFINITION. The named operations over memory, registers, stack, framebuffer and keypad that the
instruction meanings share, and taking a fault (spec/00_scope.md R9 to R13; spec/20_memory.md; spec/40_cycle.md
R107; spec/60_exceptions.md R243 to R245). -/

namespace Sys2Proof.Machine

/-! ## Memory (R50 to R59) -/

/-- What an address holds after RESET, and so what an unlisted address reads as (R36, R56).
Only the reserved region below 0x200 can hold a font byte (R6, R55).
Log entry 10. -/
def resetByte (a : Nat) : Byte :=
  if 0x200 ≤ a then 0
  else if h : Config.fontBase.val ≤ a ∧ a < Config.fontBase.val + 80 then
    Config.fontData[a - Config.fontBase.val]'(by omega)
  else 0

/-- `MemRead(a, 1)` (R10). -/
def Memory.read : Memory → Nat → Byte
  | [], a => resetByte a
  | c :: m, a => if c.1 = a then c.2 else Memory.read m a

/-- List the byte at its place in the order of the addresses, in place of an older one. -/
def Memory.insert : Memory → Nat → Byte → Memory
  | [], a, b => [(a, b)]
  | c :: m, a, b =>
    if a < c.1 then (a, b) :: c :: m
    else if a = c.1 then (a, b) :: m
    else c :: Memory.insert m a b

/-- Take an address off the list. -/
def Memory.erase (m : Memory) (a : Nat) : Memory := m.filter (fun c => decide (c.1 ≠ a))

/-- `MemWrite(a, 1, b)` (R10).
It keeps the canonical form: an address that holds its reset byte is not listed. -/
def Memory.write (m : Memory) (a : Nat) (b : Byte) : Memory :=
  if b = resetByte a then Memory.erase m a else Memory.insert m a b

/-- The canonical form: addresses strictly rising, each one of 0x000 to 0xFFF, no entry equal to what its
address reads as when unlisted. -/
abbrev Memory.wf (m : Memory) : Prop :=
  m.Pairwise (fun c d => c.1 < d.1) ∧ ∀ c ∈ m, c.1 < 4096 ∧ c.2 ≠ resetByte c.1

/-- Byte writes at `a`, `a + 1`, … in that order (R173, R174, R60). -/
def Memory.writeBytes : Memory → Nat → List Byte → Memory
  | m, _, [] => m
  | m, a, b :: bs => Memory.writeBytes (Memory.write m a b) (a + 1) bs

/-- The bytes at `a` to `a + n - 1`. -/
def Memory.readBytes (m : Memory) (a n : Nat) : List Byte :=
  (List.range n).map (fun k => Memory.read m (a + k))

/-- `MemRead(a, 2)`, big-endian (R10, R52). -/
def Memory.readWord (m : Memory) (a : Nat) : Word :=
  bigEndian (Memory.read m a) (Memory.read m (a + 1))

/-- The test of `CheckRange(a, n, code)` (R10): some address of the range is above 0xFFF.
The sum is not truncated, and a count of 0 never fails. -/
abbrev OutOfRange (a n : Nat) : Prop := n ≥ 1 ∧ a + n - 1 > 0xFFF

/-! ## Registers (R9, R21 to R24) -/

/-- `V[x]` (R9). -/
def State.readV (s : State) (x : Reg) : Byte := s.v[x]

/-- `V[x] <- b` (R9). -/
def State.writeV (s : State) (x : Reg) (b : Byte) : State := { s with v := s.v.set x b }

/-- The result to `V[x]` first and the flag to VF last, so that the flag stands when `x = F` (R142). -/
def State.writeResultAndFlag (s : State) (x : Reg) (r : Byte) (f : Bool) : State :=
  (s.writeV x r).writeV 15 (flagByte f)

/-- `PC <- target` (R9). -/
def State.jumpTo (s : State) (target : Word) : State := { s with pc := target }

/-- `if c: PC <- PC +_16 2`, the skip (R128). -/
def State.skipIf (s : State) (c : Bool) : State := { s with pc := if c then s.pc + 2 else s.pc }

/-- `PC <- PC -_16 2`: back to the word that was fetched (R107, R222). -/
def State.rewind (s : State) : State := { s with pc := s.pc - 2 }

/-- `I <- a` (R9). -/
def State.setI (s : State) (a : Word) : State := { s with i := a }

/-! ## The return stack (R25, R26) -/

/-- `STACK[SP] <- r; SP <- SP + 1`, for SP below 16 (R121). -/
def State.push (s : State) (r : Word) (h : s.sp.val < 16) : State :=
  { s with stack := s.stack.set s.sp.val r, sp := ⟨s.sp.val + 1, by omega⟩ }

/-- The top of the stack, `STACK[SP - 1]`, for SP above 0 (R25). -/
def State.top (s : State) (h : 0 < s.sp.val) : Word := s.stack[s.sp.val - 1]'(by omega)

/-- `SP <- SP - 1`, for SP above 0; the entry keeps its value (R122, R26). -/
def State.pop (s : State) (h : 0 < s.sp.val) : State :=
  { s with sp := ⟨s.sp.val - 1, by have := s.sp.isLt; have := h; omega⟩ }

/-! ## Taking a fault (R11, R107, R244) and the end of one (R245)

There is no return from a fault: only the command RESET clears the fault register (R245), which is
`State.resetCommand` of Machine/Commands.lean. -/

/-- FAULT(c) at the state before the faulting step, whose PC is the address of the faulting word: the fault
record is written and nothing else (R107). -/
def State.takeFault (s : State) (c : FaultCode) (w : Word) : State :=
  { s with faultCode := c, faultPc := s.pc, faultWord := w }

/-- `raise Fault(c)` inside the execution of the instruction `i` (R11): PC is `a + 2` there, so it goes back to
`a`, and the word recorded is the word of `i` (log entry 6). -/
def State.raiseFault (s : State) (c : FaultCode) (i : Instr) : State :=
  s.rewind.takeFault c (encode i)

/-- `CheckRange(I, n, MEM_RANGE)` and then the effect: the state `next`, or the fault with none of it
(R10, R59, R243). -/
def State.checkedAccess (s : State) (i : Instr) (n : Nat) (next : State) : State :=
  if OutOfRange s.i.toNat n then s.raiseFault .memRange i else next

/-! ## The framebuffer (R13, R29, R191 to R194) -/

/-- `FB[px, py]` (R13). -/
def Framebuffer.pixel (fb : Framebuffer) (px : Fin 64) (py : Fin 32) : Bool := fb[py].getLsbD px.val

/-- `FB[px, py] <- FB[px, py] XOR 1` (R191). -/
def Framebuffer.toggle (fb : Framebuffer) (px : Fin 64) (py : Fin 32) : Framebuffer :=
  fb.set py (fb[py] ^^^ BitVec.twoPow 64 px.val)

/-- All pixels 0 (R190). -/
def Framebuffer.clear : Framebuffer := Vector.replicate 32 0

/-- A draw in progress: the picture, and the collision seen so far (R191's `FB` and `c`). -/
structure Blit where
  fb : Framebuffer
  collision : Bool
deriving DecidableEq, Repr

/-- One set sprite bit meets the pixel `(px, py)`: it is toggled, and a pixel that was 1 is a collision (R191, R193). -/
def Blit.hit (b : Blit) (px : Fin 64) (py : Fin 32) : Blit :=
  { fb := Framebuffer.toggle b.fb px py, collision := b.collision || Framebuffer.pixel b.fb px py }

/-- `px <- (x0 + k) mod 64` (R191, R194). -/
def column (x0 : Fin 64) (k : Nat) : Fin 64 := Fin.ofNat 64 (x0.val + k)

/-- `py <- (y0 + r) mod 32` (R191, R194). -/
def row (y0 : Fin 32) (r : Nat) : Fin 32 := Fin.ofNat 32 (y0.val + r)

/-- Bit `7 - k` of a sprite byte is its pixel `k` from the left (R192). -/
def spriteBit (byte : Byte) (k : Nat) : Bool := byte.getLsbD (7 - k)

/-- One sprite byte, drawn in row `py`: the inner loop of R191. -/
def Blit.drawByte (b : Blit) (x0 : Fin 64) (py : Fin 32) (byte : Byte) : Blit :=
  [0, 1, 2, 3, 4, 5, 6, 7].foldl (fun b k => if spriteBit byte k then b.hit (column x0 k) py else b) b

/-- The sprite bytes from row `r` on: the outer loop of R191. -/
def Blit.drawRows (x0 : Fin 64) (y0 : Fin 32) : Blit → Nat → List Byte → Blit
  | b, _, [] => b
  | b, r, byte :: bytes => Blit.drawRows x0 y0 (b.drawByte x0 (row y0 r) byte) (r + 1) bytes

/-- A whole draw (R191). -/
def Framebuffer.draw (fb : Framebuffer) (x0 : Fin 64) (y0 : Fin 32) (bytes : List Byte) : Blit :=
  Blit.drawRows x0 y0 { fb := fb, collision := false } 0 bytes

/-! ## The keypad (R30, R222) -/

def allKeys : List Key := [0, 1, 2, 3, 4, 5, 6, 7, 8, 9, 10, 11, 12, 13, 14, 15]

/-- `{ k in 0..15 | KEY[k] = 1 }`, as a list without repeats (R222). -/
def pressedKeys (key : Vector Bool 16) : List Key := allKeys.filter (fun k => key[k])

/-- KEY_SELECT of a non-empty set of pressed keys, listed as `k :: ks` (R6, R222): a member of it, the only one
where there is one, else whichever `Config.keyChoice` says (log entry 3). -/
def keySelect (key : Vector Bool 16) (k : Key) (ks : List Key) : Key :=
  match ks with
  | [] => k
  | _ :: _ => (k :: ks)[Config.keyChoice key % (ks.length + 1)]'(Nat.mod_lt _ (Nat.succ_pos _))

end Sys2Proof.Machine
end

