-- ==== Sys2Proof/Machine/Operands.lean ====
section
/-! DEFINITION. The operand forms: how an instruction's fields and registers become the values it computes
with (spec/30_encoding.md R83; spec/42_alu.md R152; spec/43_index_memory.md; spec/44_display.md R191;
spec/46_keypad.md R220). -/

namespace Sys2Proof.Machine

/-- `zext_16(nnn)`: an address is zero-extended, never scaled or sign-extended (R8, R83). -/
def extendAddr (nnn : Addr) : Word := nnn.zeroExtend 16

/-- `zext_16(V[x])` (R8). -/
def extendByte (b : Byte) : Word := b.zeroExtend 16

/-- The shift source: `V[y]` under SHIFT_SRC = VY, `V[x]` under VX (R152). -/
def shiftOperand (x y : Reg) (s : State) : Byte :=
  match s.options.shiftSrc with
  | .vy => s.readV y
  | .vx => s.readV x

/-- The factor of FONT_SCALE (R172). -/
def fontFactor : Config.FontScale → Word
  | .one => 1
  | .five => 5

/-- `zext_16(FONT_BASE) +_16 factor * zext_16(V[x])` (R172). -/
def fontAddress (scale : Config.FontScale) (b : Byte) : Word :=
  BitVec.ofNat 16 Config.fontBase.val + fontFactor scale * extendByte b

/-- The decimal digits: hundreds, tens, ones (R173). -/
def bcdDigits (b : Byte) : List Byte :=
  [BitVec.ofNat 8 (b.toNat / 100), BitVec.ofNat 8 (b.toNat / 10 % 10), BitVec.ofNat 8 (b.toNat % 10)]

/-- The registers V0 to Vx, inclusive (R174, R175). -/
def registersUpTo (x : Reg) (s : State) : List Byte := s.v.toList.take (x.val + 1)

/-- `V[i] <- MemRead(I + i, 1)` for i in 0 to x; the registers above x are kept (R175). -/
def loadedRegisters (x : Reg) (s : State) : Vector Byte 16 :=
  Vector.ofFn fun r : Fin 16 => if r.val ≤ x.val then Memory.read s.mem (s.i.toNat + r.val) else s.readV r

/-- `x0 <- V[x] mod 64` (R191). -/
def startColumn (b : Byte) : Fin 64 := Fin.ofNat 64 b.toNat

/-- `y0 <- V[y] mod 32` (R191). -/
def startRow (b : Byte) : Fin 32 := Fin.ofNat 32 b.toNat

/-- The sprite of `n` rows at I (R191). -/
def spriteBytes (s : State) (n : RowCount) : List Byte := Memory.readBytes s.mem s.i.toNat n.val

/-- `KEY[k]` for a key number held in a register, or nothing when it is above 15 (R220, R221). -/
def keyState (s : State) (k : Byte) : Option Bool :=
  if h : k.toNat < 16 then some (s.key[k.toNat]'h) else none

end Sys2Proof.Machine
end

