-- ==== Sys2Proof/Machine/Alu.lean ====
section
/-! DEFINITION. Loads, arithmetic, logic, shifts and random (spec/42_alu.md).
Every operand is read from the state before the instruction (R141); a flag is written last (R142). -/

namespace Sys2Proof.Machine

/-- `6xnn` LD Vx, nn (R144). -/
def execLdImm (x : Reg) (nn : Byte) (s : State) : Host.Outcome State Fault Refusal :=
  .next (s.writeV x nn)

/-- `7xnn` ADD Vx, nn (R145): modulo 256, no flag. -/
def execAddImm (x : Reg) (nn : Byte) (s : State) : Host.Outcome State Fault Refusal :=
  .next (s.writeV x (s.readV x + nn))

/-- `8xy0` LD Vx, Vy (R146). -/
def execLdReg (x y : Reg) (s : State) : Host.Outcome State Fault Refusal :=
  .next (s.writeV x (s.readV y))

/-- `8xy1` OR Vx, Vy (R147). -/
def execOrReg (x y : Reg) (s : State) : Host.Outcome State Fault Refusal :=
  .next (s.writeV x (s.readV x ||| s.readV y))

/-- `8xy2` AND Vx, Vy (R148). -/
def execAndReg (x y : Reg) (s : State) : Host.Outcome State Fault Refusal :=
  .next (s.writeV x (s.readV x &&& s.readV y))

/-- `8xy3` XOR Vx, Vy (R149). -/
def execXorReg (x y : Reg) (s : State) : Host.Outcome State Fault Refusal :=
  .next (s.writeV x (s.readV x ^^^ s.readV y))

/-- `8xy4` ADD Vx, Vy (R150). -/
def execAddReg (x y : Reg) (s : State) : Host.Outcome State Fault Refusal :=
  .next (s.writeResultAndFlag x (s.readV x + s.readV y) (carryFlag (s.readV x) (s.readV y)))

/-- `8xy5` SUB Vx, Vy (R151). -/
def execSub (x y : Reg) (s : State) : Host.Outcome State Fault Refusal :=
  .next (s.writeResultAndFlag x (s.readV x - s.readV y) (noBorrowFlag (s.readV x) (s.readV y)))

/-- `8xy7` SUBN Vx, Vy (R154). -/
def execSubn (x y : Reg) (s : State) : Host.Outcome State Fault Refusal :=
  .next (s.writeResultAndFlag x (s.readV y - s.readV x) (noBorrowFlag (s.readV y) (s.readV x)))

/-- `8xy6` SHR Vx, Vy (R153), the source as SHIFT_SRC says (R152). -/
def execShr (x y : Reg) (s : State) : Host.Outcome State Fault Refusal :=
  .next (s.writeResultAndFlag x (shiftOperand x y s >>> 1) (shiftedOutLow (shiftOperand x y s)))

/-- `8xyE` SHL Vx, Vy (R155), the source as SHIFT_SRC says (R152). -/
def execShl (x y : Reg) (s : State) : Host.Outcome State Fault Refusal :=
  .next (s.writeResultAndFlag x (shiftOperand x y s <<< 1) (shiftedOutHigh (shiftOperand x y s)))

/-- `Draw8()` has been read: the next `Cxnn` reads another draw, on which nothing is known (R12; log entry 2). -/
def State.nextDraw (s : State) : State := { s with rnd := Config.rnd s.draws, draws := s.draws + 1 }

/-- `Cxnn` RND Vx, nn (R156). -/
def execRnd (x : Reg) (nn : Byte) (s : State) : Host.Outcome State Fault Refusal :=
  .next (s.writeV x (s.rnd &&& nn)).nextDraw

end Sys2Proof.Machine
end

