-- ==== Sys2Proof/Machine/ControlFlow.lean ====
section
/-! DEFINITION. Jumps, call, return and skips (spec/41_control_flow.md).
Every meaning runs on the state after fetch: its PC is `a + 2` (spec/40_cycle.md R106). -/

namespace Sys2Proof.Machine

/-- `1nnn` JP nnn (R120). -/
def execJp (nnn : Addr) (s : State) : Host.Outcome State Fault Refusal :=
  .next (s.jumpTo (extendAddr nnn))

/-- `2nnn` CALL nnn (R121): STACK_OVERFLOW when SP = 16, else the return address is pushed. -/
def execCall (nnn : Addr) (s : State) : Host.Outcome State Fault Refusal :=
  if h : s.sp.val < 16 then .next ((s.push s.pc h).jumpTo (extendAddr nnn))
  else .next (s.raiseFault .stackOverflow (.call nnn))

/-- `00EE` RET (R122): STACK_UNDERFLOW when SP = 0, else back to the popped address. -/
def execRet (s : State) : Host.Outcome State Fault Refusal :=
  if h : 0 < s.sp.val then .next ((s.pop h).jumpTo (s.top h))
  else .next (s.raiseFault .stackUnderflow .ret)

/-- `3xnn` SE Vx, nn (R123). -/
def execSeImm (x : Reg) (nn : Byte) (s : State) : Host.Outcome State Fault Refusal :=
  .next (s.skipIf (decide (s.readV x = nn)))

/-- `4xnn` SNE Vx, nn (R124). -/
def execSneImm (x : Reg) (nn : Byte) (s : State) : Host.Outcome State Fault Refusal :=
  .next (s.skipIf (decide (s.readV x ≠ nn)))

/-- `5xy0` SE Vx, Vy (R125). -/
def execSeReg (x y : Reg) (s : State) : Host.Outcome State Fault Refusal :=
  .next (s.skipIf (decide (s.readV x = s.readV y)))

/-- `9xy0` SNE Vx, Vy (R126). -/
def execSneReg (x y : Reg) (s : State) : Host.Outcome State Fault Refusal :=
  .next (s.skipIf (decide (s.readV x ≠ s.readV y)))

/-- `Bnnn` JP V0, nnn (R127): the 16-bit sum, not masked. -/
def execJpV0 (nnn : Addr) (s : State) : Host.Outcome State Fault Refusal :=
  .next (s.jumpTo (extendAddr nnn + extendByte (s.readV 0)))

end Sys2Proof.Machine
end

