-- ==== Sys2Proof/Machine/Display.lean ====
section
/-! DEFINITION. The display instructions (spec/44_display.md). -/

namespace Sys2Proof.Machine

/-- `00E0` CLS (R190). -/
def execCls (s : State) : Host.Outcome State Fault Refusal :=
  .next { s with fb := Framebuffer.clear }

/-- What `Dxyn` draws, before the state takes it (R191): the sprite at I, at (Vx mod 64, Vy mod 32). -/
def drawnSprite (x y : Reg) (n : RowCount) (s : State) : Blit :=
  Framebuffer.draw s.fb (startColumn (s.readV x)) (startRow (s.readV y)) (spriteBytes s n)

/-- `Dxyn` DRW Vx, Vy, n (R191): the picture, and VF last; or MEM_RANGE with neither. -/
def execDrw (x y : Reg) (n : RowCount) (s : State) : Host.Outcome State Fault Refusal :=
  .next (s.checkedAccess (.drw x y n) n.val
    (State.writeV { s with fb := (drawnSprite x y n s).fb } 15 (flagByte (drawnSprite x y n s).collision)))

end Sys2Proof.Machine
end

