-- ==== Sys2Proof/Machine/IndexMemory.lean ====
section
/-! DEFINITION. The index register and memory transfer (spec/43_index_memory.md). -/

namespace Sys2Proof.Machine

/-- `Annn` LD I, nnn (R170). -/
def execLdI (nnn : Addr) (s : State) : Host.Outcome State Fault Refusal :=
  .next (s.setI (extendAddr nnn))

/-- `Fx1E` ADD I, Vx (R171): modulo 2^16, no mask, no check, no flag. -/
def execAddI (x : Reg) (s : State) : Host.Outcome State Fault Refusal :=
  .next (s.setI (s.i + extendByte (s.readV x)))

/-- `Fx29` LD F, Vx (R172), scaled as FONT_SCALE says. -/
def execLdF (x : Reg) (s : State) : Host.Outcome State Fault Refusal :=
  .next (s.setI (fontAddress s.options.fontScale (s.readV x)))

/-- `Fx33` LD B, Vx (R173): the three digits at I, I + 1 and I + 2, or MEM_RANGE. -/
def execLdB (x : Reg) (s : State) : Host.Outcome State Fault Refusal :=
  .next (s.checkedAccess (.ldB x) 3
    { s with mem := Memory.writeBytes s.mem s.i.toNat (bcdDigits (s.readV x)) })

/-- `Fx55` LD [I], Vx (R174): V0 to Vx at I to I + x, or MEM_RANGE; I is kept. -/
def execStoreRegs (x : Reg) (s : State) : Host.Outcome State Fault Refusal :=
  .next (s.checkedAccess (.storeRegs x) (x.val + 1)
    { s with mem := Memory.writeBytes s.mem s.i.toNat (registersUpTo x s) })

/-- `Fx65` LD Vx, [I] (R175): V0 to Vx from I to I + x, or MEM_RANGE; I is kept. -/
def execLoadRegs (x : Reg) (s : State) : Host.Outcome State Fault Refusal :=
  .next (s.checkedAccess (.loadRegs x) (x.val + 1) { s with v := loadedRegisters x s })

end Sys2Proof.Machine
end

