-- ==== Sys2Proof/Machine/Keypad.lean ====
section
/-! DEFINITION. The keypad instructions (spec/46_keypad.md R220 to R222). -/

namespace Sys2Proof.Machine

/-- `Ex9E` SKP Vx (R220): KEY_RANGE when Vx > 15. -/
def execSkp (x : Reg) (s : State) : Host.Outcome State Fault Refusal :=
  match keyState s (s.readV x) with
  | some pressed => .next (s.skipIf pressed)
  | none => .next (s.raiseFault .keyRange (.skp x))

/-- `ExA1` SKNP Vx (R221): KEY_RANGE when Vx > 15. -/
def execSknp (x : Reg) (s : State) : Host.Outcome State Fault Refusal :=
  match keyState s (s.readV x) with
  | some pressed => .next (s.skipIf (!pressed))
  | none => .next (s.raiseFault .keyRange (.sknp x))

/-- `Fx0A` LD Vx, K (R222): with no key pressed, back to this word; else Vx = KEY_SELECT of the pressed keys. -/
def execLdVxK (x : Reg) (s : State) : Host.Outcome State Fault Refusal :=
  match pressedKeys s.key with
  | [] => .next s.rewind
  | k :: ks => .next (s.writeV x (BitVec.ofNat 8 (keySelect s.key k ks).val))

end Sys2Proof.Machine
end

