-- ==== Sys2Proof/Machine/Timers.lean ====
section
/-! DEFINITION. The timer instructions (spec/45_timers.md R210 to R212). -/

namespace Sys2Proof.Machine

/-- `Fx07` LD Vx, DT (R210). -/
def execLdVxDt (x : Reg) (s : State) : Host.Outcome State Fault Refusal :=
  .next (s.writeV x s.dt)

/-- `Fx15` LD DT, Vx (R211). -/
def execLdDtVx (x : Reg) (s : State) : Host.Outcome State Fault Refusal :=
  .next { s with dt := s.readV x }

/-- `Fx18` LD ST, Vx (R212). -/
def execLdStVx (x : Reg) (s : State) : Host.Outcome State Fault Refusal :=
  .next { s with st := s.readV x }

end Sys2Proof.Machine
end

