-- ==== Sys2Proof/Machine/Cycle.lean ====
section
/-! DEFINITION. The step cycle: halted test, fetch, decode, execute, and the response (spec/40_cycle.md R103
to R113).
Points that the spec decides itself, D1 to D37, are followed as its rules state them (log entry 13); there is no time
(R276; log entry 14). -/

namespace Sys2Proof.Machine

/-- The responses of STEP (R110), computed beside the state and kept in none of it (R109; log entry 11). -/
inductive Response where
  /-- An instruction executed and committed, a key-wait included (R108). -/
  | ok
  /-- The word matched no row (R109). -/
  | unknown (w : Word)
  /-- The fetch check or the instruction raised the fault (R107). -/
  | fault (c : FaultCode)
  /-- FAULT_CODE was not NONE at the start of the step (R103). -/
  | halted
deriving DecidableEq, Repr

/-- The core is halted: FAULT_CODE ≠ NONE (R103). -/
abbrev State.Halted (s : State) : Prop := s.faultCode ≠ .none

/-- The fetch check fails: PC > 0xFFE (R104). -/
abbrev State.FetchFails (s : State) : Prop := OutOfRange s.pc.toNat 2

/-- The word at PC: `MemRead(a, 2)` (R104). -/
def State.fetchWord (s : State) : Word := Memory.readWord s.mem s.pc.toNat

/-- The state after fetch: PC is `a + 2` (R104). -/
def State.afterFetch (s : State) : State := { s with pc := s.pc + 2 }

/-- STEP as R113 writes it, the state part: a halted core changes nothing, a failed fetch check takes
FETCH_RANGE with the word 0x0000, an unknown word only advances PC, and an instruction has its meaning on the
state after fetch. -/
def stepCycle (s : State) : Host.Outcome State Fault Refusal :=
  if s.Halted then .next s
  else if s.FetchFails then .next (s.takeFault .fetchRange 0)
  else
    match decode s.fetchWord with
    | .error _ => .next s.afterFetch
    | .ok i => exec i s.afterFetch

/-- What an executed instruction answers: `FAULT(c)` if it raised `c`, else `OK` (R107, R108). -/
def executedResponse : Host.Outcome State Fault Refusal → Response
  | .next t => if t.faultCode = .none then .ok else .fault t.faultCode
  | _ => .halted

/-- STEP as R113 writes it, the response part. -/
def stepResponse (s : State) : Response :=
  if s.Halted then .halted
  else if s.FetchFails then .fault .fetchRange
  else
    match decode s.fetchWord with
    | .error _ => .unknown s.fetchWord
    | .ok i => executedResponse (exec i s.afterFetch)

end Sys2Proof.Machine
end

