-- ==== Sys2Proof/Machine/Step.lean ====
section
/-! DEFINITION. One step of the machine is one STEP command (spec/40_cycle.md R113; log entry 1), and the placing
of a word where the next step fetches it. -/

namespace Sys2Proof.Machine

def step (s : State) : Host.Outcome State Fault Refusal := stepCycle s

/-- The state in which the very next step runs the word `w` (of which `nbits` bits are given, the rest 0), stored
high byte first at PC (R52, R104).
A state that can fetch at its PC changes in those two bytes alone.
A halted one has its fault register cleared, and one whose PC is above 0xFFE is put at 0x200, since nothing can
be fetched there otherwise (log entry 12). -/
def State.withFetchWord (s : State) (nbits w : Nat) : State :=
  let word : Word := BitVec.ofNat 16 (w % 2 ^ nbits)
  let runnable : State :=
    if s.Halted then { s with faultCode := .none, faultPc := 0, faultWord := 0 } else s
  let placed : State := if s.FetchFails then runnable.jumpTo 0x0200 else runnable
  { placed with mem := Memory.writeBytes placed.mem placed.pc.toNat [highByte word, lowByte word] }

end Sys2Proof.Machine
end

