-- ==== Sys2Proof/Machine/Commands.lean ====
section
/-! DEFINITION. The host's commands (spec/40_cycle.md R100 to R102, R111; spec/70_reset_and_hazards.md R270 to R273;
spec/20_memory.md R60, R61; spec/44_display.md R195; spec/45_timers.md R213, R214; spec/46_keypad.md R223, R224). -/

namespace Sys2Proof.Machine

/-- The commands of R101 with their arguments. -/
inductive Command where
  | reset
  | loadRom (bytes : List Byte)
  | step (rnd : Byte)
  | tick
  | setKey (k : Key) (pressed : Bool)
  | clearKeys
  | readFb
  | readStatus
deriving DecidableEq, Repr

/-- The answers of R101. -/
inductive Answer where
  | nothing
  | romOk
  | romTooLarge
  | step (r : Response)
  /-- 2048 pixel bits, linear index `py × 64 + px` (R195). -/
  | pixels (bits : List Bool)
  | status (code : BitVec 3) (pc word : Word)
deriving DecidableEq, Repr

/-- RESET (R270): every piece of state of R36.
The RND input is the host's and not the core's state: it and its count are kept (log entry 2).
The option points are parameters, which no command changes (R34; log entry 5). -/
def State.resetCommand (s : State) : State :=
  { State.reset with rnd := s.rnd, draws := s.draws, options := s.options }

/-- LOAD_ROM of an accepted ROM: the bytes from 0x200 on, and nothing else (R60). -/
def State.loadRom (s : State) (bytes : List Byte) : State :=
  { s with mem := Memory.writeBytes s.mem 0x200 bytes }

/-- `if T != 0: T <- T - 1` (R213). -/
def countDown (t : Byte) : Byte := if t = 0 then 0 else t - 1

/-- TICK (R213). -/
def State.tick (s : State) : State := { s with dt := countDown s.dt, st := countDown s.st }

/-- SET_KEY(k, p) (R223). -/
def State.setKey (s : State) (k : Key) (p : Bool) : State := { s with key := s.key.set k p }

/-- CLEAR_KEYS (R224). -/
def State.clearKeys (s : State) : State := { s with key := Vector.replicate 16 false }

/-- The `rnd` argument of STEP(rnd), which only an executed `Cxnn` reads (R101, R12). -/
def State.withRnd (s : State) (rnd : Byte) : State := { s with rnd := rnd }

/-- The core built with other option points (R6, R34): no command, but the choice of the machine. -/
def State.withOptions (s : State) (o : Config.Options) : State := { s with options := o }

/-- READ_FB: the pixel of linear index `k` is `FB[k mod 64, k div 64]` (R13, R195). -/
def State.readFb (s : State) : List Bool :=
  (List.range 2048).map fun k => Framebuffer.pixel s.fb (Fin.ofNat 64 k) (Fin.ofNat 32 (k / 64))

/-- The continuous output ST_OUT (R214). -/
def State.stOut (s : State) : Byte := s.st

/-- One command, to completion: the state after it and its answer (R101, R102). -/
def perform (c : Command) (s : State) : Host.Outcome (State × Answer) Fault Refusal :=
  match c with
  | .reset => .next (s.resetCommand, .nothing)
  | .loadRom bytes => if romWellFormed bytes then .next (s.loadRom bytes, .romOk) else .next (s, .romTooLarge)
  | .step rnd =>
    match step (s.withRnd rnd) with
    | .next t => .next (t, .step (stepResponse (s.withRnd rnd)))
    | .fault f => .fault f
    | .refused r => .refused r
  | .tick => .next (s.tick, .nothing)
  | .setKey k p => .next (s.setKey k p, .nothing)
  | .clearKeys => .next (s.clearKeys, .nothing)
  | .readFb => .next (s, .pixels s.readFb)
  | .readStatus => .next (s, .status s.faultCode.toBits s.faultPc s.faultWord)

/-- A host's commands in the order it issues them, with their answers (R102). -/
def performAll : List Command → State → Host.Outcome (State × List Answer) Fault Refusal
  | [], s => .next (s, [])
  | c :: cs, s =>
    match perform c s with
    | .next (t, a) =>
      match performAll cs t with
      | .next (u, as) => .next (u, a :: as)
      | .fault f => .fault f
      | .refused r => .refused r
    | .fault f => .fault f
    | .refused r => .refused r

end Sys2Proof.Machine
end

