-- ==== Sys2Proof/Safety.lean ====
section
/-! DEFINITION. The terms that claims use: what an instruction may change, the legal states, the named end
conditions of a run (spec/70_reset_and_hazards.md R277), runs of STEP, the reset values (spec/10_state.md R36), and
words written out from the patterns of spec/30_encoding.md R84. -/

namespace Sys2Proof.Machine

/-! ## Frames -/

/-- What may change: the registers named, the parts marked, the stack entries named, and `memLength` bytes of
memory from `memFrom` on. Everything is off unless it is turned on. -/
structure Footprint where
  regs : List Reg := []
  index : Bool := false
  pc : Bool := false
  sp : Bool := false
  stack : List Nat := []
  dt : Bool := false
  st : Bool := false
  display : Bool := false
  keys : Bool := false
  faultRecord : Bool := false
  randomInput : Bool := false
  memFrom : Nat := 0
  memLength : Nat := 0

/-- From `s` to `t` nothing changes outside the footprint; memory is compared byte by byte.
The option points never change (R34). -/
structure ChangesOnly (f : Footprint) (s t : State) : Prop where
  regs : ∀ r : Reg, r ∉ f.regs → t.readV r = s.readV r
  index : f.index = false → t.i = s.i
  pc : f.pc = false → t.pc = s.pc
  sp : f.sp = false → t.sp = s.sp
  stack : ∀ k : Fin 16, k.val ∉ f.stack → t.stack[k] = s.stack[k]
  dt : f.dt = false → t.dt = s.dt
  st : f.st = false → t.st = s.st
  display : f.display = false → ∀ px py, Framebuffer.pixel t.fb px py = Framebuffer.pixel s.fb px py
  keys : f.keys = false → ∀ k : Key, t.key[k] = s.key[k]
  faultRecord : f.faultRecord = false →
    t.faultCode = s.faultCode ∧ t.faultPc = s.faultPc ∧ t.faultWord = s.faultWord
  randomInput : f.randomInput = false → t.rnd = s.rnd ∧ t.draws = s.draws
  options : t.options = s.options
  mem : ∀ a : Nat, ¬ (f.memFrom ≤ a ∧ a < f.memFrom + f.memLength) → Memory.read t.mem a = Memory.read s.mem a

/-- `t` is `s` after the fault `c` on the word `w`, seen from inside the instruction: PC is back at the faulting
word, the fault record is written, and nothing else changes (R107). -/
structure FaultTaken (c : FaultCode) (w : Word) (s t : State) : Prop where
  code : t.faultCode = c
  atPc : t.faultPc = s.pc - 2
  word : t.faultWord = w
  pc : t.pc = s.pc - 2
  frame : ChangesOnly { pc := true, faultRecord := true } s t

/-! ## Legal states and ends of a run -/

/-- The state after a legal history: memory in canonical form, PC at most 0x10FE (R24), every stack entry at most
0x1000 (R122), the fault record zero while there is no fault and at PC while there is one (R33, R107). -/
structure Legal (s : State) : Prop where
  mem : Memory.wf s.mem
  pc : s.pc.toNat ≤ 0x10FE
  stack : ∀ k : Fin 16, (s.stack[k]).toNat ≤ 0x1000
  noFault : s.faultCode = .none → s.faultPc = 0 ∧ s.faultWord = 0
  fault : s.faultCode ≠ .none → s.faultPc = s.pc

/-- Parked (R277): the word at PC is `1nnn` with `nnn = PC`, and FAULT_CODE = 0. -/
def State.Parked (s : State) : Prop :=
  s.faultCode = .none ∧ s.pc.toNat ≤ 0xFFE ∧ s.fetchWord.toNat = 0x1000 + s.pc.toNat

/-- `k` consecutive STEP commands take the state through `run 0`, `run 1`, …, `run k`. -/
def StepRun (run : Nat → State) (k : Nat) : Prop := ∀ j, j < k → step (run j) = .next (run (j + 1))

/-- The instruction a STEP would execute: the core is not halted, the fetch check passes, and the word decodes to it
(R103 to R106). -/
def State.Executes (s : State) (i : Instr) : Prop :=
  s.faultCode = .none ∧ s.pc.toNat ≤ 0xFFE ∧
    decode (bigEndian (Memory.read s.mem s.pc.toNat) (Memory.read s.mem (s.pc.toNat + 1))) = .ok i

/-- Every row of the table of R36. -/
structure HasResetValues (t : State) : Prop where
  font : ∀ k : Fin 80, Memory.read t.mem (Config.fontBase.val + k.val) = Config.fontData[k]
  zeros : ∀ a : Nat, a < 4096 → ¬ (Config.fontBase.val ≤ a ∧ a < Config.fontBase.val + 80) → Memory.read t.mem a = 0
  v : ∀ r : Reg, t.readV r = 0
  i : t.i = 0
  pc : t.pc = 0x0200
  sp : t.sp = 0
  stack : ∀ k : Fin 16, t.stack[k] = 0
  dt : t.dt = 0
  st : t.st = 0
  fb : ∀ px py, Framebuffer.pixel t.fb px py = false
  key : ∀ k : Key, t.key[k] = false
  faultCode : t.faultCode = .none
  faultPc : t.faultPc = 0
  faultWord : t.faultWord = 0

/-! ## What the rules name -/

/-- The general registers an instruction may write: its destinations, and VF where it has a flag (R22, R35). -/
def writtenRegisters : Instr → List Reg
  | .ldImm x _ | .addImm x _ | .rnd x _ => [x]
  | .ldReg x _ | .orReg x _ | .andReg x _ | .xorReg x _ => [x]
  | .addReg x _ | .sub x _ | .shr x _ | .subn x _ | .shl x _ => [x, 15]
  | .drw _ _ _ => [15]
  | .ldVxDt x | .ldVxK x => [x]
  | .loadRegs x => (List.finRange 16).filter (fun r => decide (r ≤ x))
  | .cls | .ret | .jp _ | .call _ | .seImm _ _ | .sneImm _ _ | .seReg _ _ | .sneReg _ _ | .ldI _ | .jpV0 _
  | .skp _ | .sknp _ | .ldDtVx _ | .ldStVx _ | .addI _ | .ldF _ | .ldB _ | .storeRegs _ => []

/-- The instructions that set or move PC beyond the fetch: jumps, call, return, the six skips, and the key wait (R24,
R35). -/
def movesPc : Instr → Bool
  | .jp _ | .call _ | .jpV0 _ | .ret | .seImm _ _ | .sneImm _ _ | .seReg _ _ | .sneReg _ _ | .skp _ | .sknp _
  | .ldVxK _ => true
  | .cls | .ldImm _ _ | .addImm _ _ | .rnd _ _ | .ldReg _ _ | .orReg _ _ | .andReg _ _ | .xorReg _ _
  | .addReg _ _ | .sub _ _ | .shr _ _ | .subn _ _ | .shl _ _ | .ldI _ | .drw _ _ _
  | .ldVxDt _ | .ldDtVx _ | .ldStVx _ | .addI _ | .ldF _ | .ldB _ | .storeRegs _ | .loadRegs _ => false

/-- The fault an instruction may raise, if any (R241). -/
def possibleFault : Instr → FaultCode
  | .call _ => .stackOverflow
  | .ret => .stackUnderflow
  | .drw _ _ _ | .ldB _ | .storeRegs _ | .loadRegs _ => .memRange
  | .skp _ | .sknp _ => .keyRange
  | .cls | .jp _ | .jpV0 _ | .seImm _ _ | .sneImm _ _ | .seReg _ _ | .sneReg _ _ | .ldVxK _
  | .ldImm _ _ | .addImm _ _ | .rnd _ _ | .ldReg _ _ | .orReg _ _ | .andReg _ _ | .xorReg _ _
  | .addReg _ _ | .sub _ _ | .shr _ _ | .subn _ _ | .shl _ _ | .ldI _
  | .ldVxDt _ | .ldDtVx _ | .ldStVx _ | .addI _ | .ldF _ => .none

/-- The instructions that write a flag to VF (R22). -/
def writesFlag : Instr → Bool
  | .addReg _ _ | .sub _ _ | .shr _ _ | .subn _ _ | .shl _ _ | .drw _ _ _ => true
  | .cls | .ret | .jp _ | .call _ | .seImm _ _ | .sneImm _ _ | .seReg _ _ | .sneReg _ _ | .ldI _ | .jpV0 _
  | .ldImm _ _ | .addImm _ _ | .rnd _ _ | .ldReg _ _ | .orReg _ _ | .andReg _ _ | .xorReg _ _
  | .skp _ | .sknp _ | .ldVxDt _ | .ldVxK _ | .ldDtVx _ | .ldStVx _ | .addI _ | .ldF _ | .ldB _
  | .storeRegs _ | .loadRegs _ => false

/-- The sprite of `n` rows at I, drawn from column `V[x] mod 64` and row `V[y] mod 32`, has a set bit that lands on
`(px, py)` (R191, R192, R194). -/
def SpriteCovers (s : State) (x y : Reg) (n : RowCount) (px : Fin 64) (py : Fin 32) : Prop :=
  ∃ r k : Nat, r < n.val ∧ k < 8 ∧ (Memory.read s.mem (s.i.toNat + r)).getLsbD (7 - k) = true ∧
    px.val = ((s.readV x).toNat % 64 + k) % 64 ∧ py.val = ((s.readV y).toNat % 32 + r) % 32

/-- Two states differ at most in stack entries at or above SP (R26). -/
def SameButStaleStack (s t : State) : Prop :=
  (∀ k : Fin 16, k.val < s.sp.val → t.stack[k] = s.stack[k]) ∧ t = { s with stack := t.stack }

/-! ## Words written out from the patterns of R84 -/

/-- `?nnn` (format A of R81). -/
def patternA (base : Nat) (nnn : Addr) : Word := BitVec.ofNat 16 (base + nnn.toNat)

/-- `?xnn` (format XB of R81). -/
def patternXB (base : Nat) (x : Reg) (nn : Byte) : Word := BitVec.ofNat 16 (base + 0x100 * x.val + nn.toNat)

/-- `?xyN` (format XYN of R81). -/
def patternXY (base : Nat) (x y : Reg) : Word := BitVec.ofNat 16 (base + 0x100 * x.val + 0x10 * y.val)

/-- `?xNN` (format XB with a sub-op, R81). -/
def patternX (base : Nat) (x : Reg) : Word := BitVec.ofNat 16 (base + 0x100 * x.val)

end Sys2Proof.Machine
end

