-- ==== Sys2Proof/Certificates/Slice0/Obligations.lean ====
section
/-! DEFINITION. The statements for the provers, from the numbered rules of spec/.
An instruction's statement is about its meaning on the state after fetch, whose PC is `a + 2` (spec/40_cycle.md
R106); `StepRunsDecodedInstruction` carries it to a step. -/

open Sys2Proof Sys2Proof.Machine

/-! ## Control flow (spec/41_control_flow.md) -/

/-- R120: `1nnn` decodes as JP; it sets PC to `nnn` zero-extended and changes nothing else. -/
def Obligations.JumpSetsPc : Prop :=
  ∀ (nnn : Addr) (s : State),
    decode (patternA 0x1000 nnn) = .ok (.jp nnn) ∧
    ∃ t, exec (.jp nnn) s = .next t ∧ t.pc.toNat = nnn.toNat ∧ ChangesOnly { pc := true } s t

/-- R121: `2nnn` with SP below 16 pushes the PC after fetch at STACK[SP], adds one to SP and jumps; with SP = 16 it
takes STACK_OVERFLOW with its own word and pushes nothing.
The fault is the spec's decision D3 (spec/92_eei_decisions.md). -/
def Obligations.CallPushesReturnAddress : Prop :=
  ∀ (nnn : Addr) (s : State),
    decode (patternA 0x2000 nnn) = .ok (.call nnn) ∧
    (∀ h : s.sp.val < 16, ∃ t, exec (.call nnn) s = .next t ∧ t.stack[s.sp.val] = s.pc ∧
      t.sp.val = s.sp.val + 1 ∧ t.pc.toNat = nnn.toNat ∧
      ChangesOnly { pc := true, sp := true, stack := [s.sp.val] } s t) ∧
    (s.sp.val = 16 → ∃ t, exec (.call nnn) s = .next t ∧ FaultTaken .stackOverflow (patternA 0x2000 nnn) s t)

/-- R122: `00EE` with SP above 0 takes one off SP and puts STACK[SP - 1] into PC, the entry kept; with SP = 0 it takes
STACK_UNDERFLOW.
The fault is the spec's decision D4. -/
def Obligations.ReturnPopsTopOfStack : Prop :=
  ∀ s : State,
    decode 0x00EE = .ok .ret ∧
    (∀ h : 0 < s.sp.val, ∃ t, exec .ret s = .next t ∧ t.sp.val + 1 = s.sp.val ∧
      t.pc = s.stack[s.sp.val - 1] ∧ ChangesOnly { pc := true, sp := true } s t) ∧
    (s.sp.val = 0 → ∃ t, exec .ret s = .next t ∧ FaultTaken .stackUnderflow 0x00EE s t)

/-- R123, R124: `3xnn` skips one word when Vx = nn and `4xnn` when Vx ≠ nn; nothing else changes. -/
def Obligations.ImmediateSkipsMovePcByTwo : Prop :=
  ∀ (x : Reg) (nn : Byte) (s : State),
    decode (patternXB 0x3000 x nn) = .ok (.seImm x nn) ∧ decode (patternXB 0x4000 x nn) = .ok (.sneImm x nn) ∧
    (∃ t, exec (.seImm x nn) s = .next t ∧ ChangesOnly { pc := true } s t ∧
      (s.readV x = nn → t.pc = s.pc + 2) ∧ (s.readV x ≠ nn → t.pc = s.pc)) ∧
    (∃ t, exec (.sneImm x nn) s = .next t ∧ ChangesOnly { pc := true } s t ∧
      (s.readV x ≠ nn → t.pc = s.pc + 2) ∧ (s.readV x = nn → t.pc = s.pc))

/-- R125, R126: `5xy0` skips one word when Vx = Vy and `9xy0` when Vx ≠ Vy; nothing else changes; with another low
nibble the word is unknown.
The unknown words are the spec's decision D33. -/
def Obligations.RegisterSkipsMovePcByTwo : Prop :=
  ∀ (x y : Reg) (s : State),
    decode (patternXY 0x5000 x y) = .ok (.seReg x y) ∧ decode (patternXY 0x9000 x y) = .ok (.sneReg x y) ∧
    (∀ n : Nat, 0 < n → n < 16 →
      decode (patternXY (0x5000 + n) x y) = .error (.unknownOpcode (patternXY (0x5000 + n) x y)) ∧
      decode (patternXY (0x9000 + n) x y) = .error (.unknownOpcode (patternXY (0x9000 + n) x y))) ∧
    (∃ t, exec (.seReg x y) s = .next t ∧ ChangesOnly { pc := true } s t ∧
      (s.readV x = s.readV y → t.pc = s.pc + 2) ∧ (s.readV x ≠ s.readV y → t.pc = s.pc)) ∧
    (∃ t, exec (.sneReg x y) s = .next t ∧ ChangesOnly { pc := true } s t ∧
      (s.readV x ≠ s.readV y → t.pc = s.pc + 2) ∧ (s.readV x = s.readV y → t.pc = s.pc))

/-- R127: `Bnnn` sets PC to `nnn + V0` over the integers (at most 0x10FE, so never masked), whatever bits 11:8 are.
That the sum is not masked is the spec's decision D6. -/
def Obligations.JumpWithOffsetAddsV0 : Prop :=
  ∀ (nnn : Addr) (s : State),
    decode (patternA 0xB000 nnn) = .ok (.jpV0 nnn) ∧
    ∃ t, exec (.jpV0 nnn) s = .next t ∧ t.pc.toNat = nnn.toNat + (s.readV 0).toNat ∧ t.pc.toNat ≤ 0x10FE ∧
      ChangesOnly { pc := true } s t

/-! ## ALU (spec/42_alu.md) -/

/-- R144, R146: `6xnn` loads the byte and `8xy0` copies Vy; only Vx changes, VF included. -/
def Obligations.LoadAndCopyWriteOnlyVx : Prop :=
  ∀ (x y : Reg) (nn : Byte) (s : State),
    decode (patternXB 0x6000 x nn) = .ok (.ldImm x nn) ∧ decode (patternXY 0x8000 x y) = .ok (.ldReg x y) ∧
    (∃ t, exec (.ldImm x nn) s = .next t ∧ t.readV x = nn ∧ ChangesOnly { regs := [x] } s t) ∧
    (∃ t, exec (.ldReg x y) s = .next t ∧ t.readV x = s.readV y ∧ ChangesOnly { regs := [x] } s t)

/-- R145: `7xnn` adds modulo 256 and touches no flag, even on overflow. -/
def Obligations.AddImmediateWrapsWithoutFlag : Prop :=
  ∀ (x : Reg) (nn : Byte) (s : State),
    decode (patternXB 0x7000 x nn) = .ok (.addImm x nn) ∧
    ∃ t, exec (.addImm x nn) s = .next t ∧ (t.readV x).toNat = ((s.readV x).toNat + nn.toNat) % 256 ∧
      ChangesOnly { regs := [x] } s t

/-- R147, R148, R149: `8xy1`, `8xy2`, `8xy3` are bitwise OR, AND, XOR into Vx; VF is not reset. -/
def Obligations.LogicIsBitwiseWithoutFlag : Prop :=
  ∀ (x y : Reg) (s : State),
    decode (patternXY 0x8001 x y) = .ok (.orReg x y) ∧ decode (patternXY 0x8002 x y) = .ok (.andReg x y) ∧
    decode (patternXY 0x8003 x y) = .ok (.xorReg x y) ∧
    (∃ t, exec (.orReg x y) s = .next t ∧ ChangesOnly { regs := [x] } s t ∧
      ∀ b < 8, (t.readV x).getLsbD b = ((s.readV x).getLsbD b || (s.readV y).getLsbD b)) ∧
    (∃ t, exec (.andReg x y) s = .next t ∧ ChangesOnly { regs := [x] } s t ∧
      ∀ b < 8, (t.readV x).getLsbD b = ((s.readV x).getLsbD b && (s.readV y).getLsbD b)) ∧
    (∃ t, exec (.xorReg x y) s = .next t ∧ ChangesOnly { regs := [x] } s t ∧
      ∀ b < 8, (t.readV x).getLsbD b = ((s.readV x).getLsbD b != (s.readV y).getLsbD b))

/-- R150 (with the order of R142): `8xy4` leaves the sum modulo 256 in Vx, unless x = F, and the carry of the integer
sum in VF.
The order of result and flag is the spec's decision D11. -/
def Obligations.AddRegistersSetsCarry : Prop :=
  ∀ (x y : Reg) (s : State),
    decode (patternXY 0x8004 x y) = .ok (.addReg x y) ∧
    ∃ t, exec (.addReg x y) s = .next t ∧ ChangesOnly { regs := [x, 15] } s t ∧
      (x ≠ 15 → (t.readV x).toNat = ((s.readV x).toNat + (s.readV y).toNat) % 256) ∧
      t.readV 15 = (if (s.readV x).toNat + (s.readV y).toNat > 255 then 1 else 0)

/-- R151, R154 (with the order of R142): `8xy5` leaves Vx - Vy and `8xy7` Vy - Vx modulo 256 in Vx, unless x = F, and in
VF whether there was no borrow.
The order of result and flag is the spec's decision D11. -/
def Obligations.SubtractionsSetNotBorrow : Prop :=
  ∀ (x y : Reg) (s : State),
    decode (patternXY 0x8005 x y) = .ok (.sub x y) ∧ decode (patternXY 0x8007 x y) = .ok (.subn x y) ∧
    (∃ t, exec (.sub x y) s = .next t ∧ ChangesOnly { regs := [x, 15] } s t ∧
      (x ≠ 15 → (t.readV x).toNat = ((s.readV x).toNat + 256 - (s.readV y).toNat) % 256) ∧
      t.readV 15 = (if (s.readV x).toNat ≥ (s.readV y).toNat then 1 else 0)) ∧
    (∃ t, exec (.subn x y) s = .next t ∧ ChangesOnly { regs := [x, 15] } s t ∧
      (x ≠ 15 → (t.readV x).toNat = ((s.readV y).toNat + 256 - (s.readV x).toNat) % 256) ∧
      t.readV 15 = (if (s.readV y).toNat ≥ (s.readV x).toNat then 1 else 0))

/-- R153, R155 (with the order of R142), on the normative core, SHIFT_SRC = VY: `8xy6` and `8xyE` shift Vy by one into Vx,
unless x = F, and leave the bit shifted out in VF.
The other value of SHIFT_SRC is in `ShiftSourceFollowsOptionPoint`.
The order of result and flag is the spec's decision D11. -/
def Obligations.ShiftsTakeVyAndSetShiftedOutBit : Prop :=
  ∀ (x y : Reg) (s : State), s.options.shiftSrc = .vy →
    decode (patternXY 0x8006 x y) = .ok (.shr x y) ∧ decode (patternXY 0x800E x y) = .ok (.shl x y) ∧
    (∃ t, exec (.shr x y) s = .next t ∧ ChangesOnly { regs := [x, 15] } s t ∧
      (x ≠ 15 → (t.readV x).toNat = (s.readV y).toNat / 2) ∧
      (t.readV 15).toNat = (s.readV y).toNat % 2) ∧
    (∃ t, exec (.shl x y) s = .next t ∧ ChangesOnly { regs := [x, 15] } s t ∧
      (x ≠ 15 → (t.readV x).toNat = (s.readV y).toNat * 2 % 256) ∧
      (t.readV 15).toNat = (s.readV y).toNat / 128)

/-- R152: the shift source is Vy where the core is built with SHIFT_SRC = VY, and Vx, whatever y is, where it is built with
VX.
The option point is the spec's decision D24. -/
def Obligations.ShiftSourceFollowsOptionPoint : Prop :=
  ∀ (x y : Reg) (s : State) (src : Byte),
    (s.options.shiftSrc = .vy ∧ src = s.readV y) ∨ (s.options.shiftSrc = .vx ∧ src = s.readV x) →
    (∃ t, exec (.shr x y) s = .next t ∧ ChangesOnly { regs := [x, 15] } s t ∧
      (x ≠ 15 → (t.readV x).toNat = src.toNat / 2) ∧ (t.readV 15).toNat = src.toNat % 2) ∧
    (∃ t, exec (.shl x y) s = .next t ∧ ChangesOnly { regs := [x, 15] } s t ∧
      (x ≠ 15 → (t.readV x).toNat = src.toNat * 2 % 256) ∧ (t.readV 15).toNat = src.toNat / 128)

/-- R156: `Cxnn` leaves the draw AND nn in Vx, for every value of the draw; no flag changes.
The draw is the model's free input field `rnd`, which nothing constrains (log entry 2). -/
def Obligations.RandomIsMaskedDraw : Prop :=
  ∀ (x : Reg) (nn : Byte) (s : State),
    decode (patternXB 0xC000 x nn) = .ok (.rnd x nn) ∧
    ∃ t, exec (.rnd x nn) s = .next t ∧ t.readV x = s.rnd &&& nn ∧
      ChangesOnly { regs := [x], randomInput := true } s t

/-! ## Index register and memory (spec/43_index_memory.md) -/

/-- R170, R171: `Annn` sets I to nnn zero-extended; `Fx1E` adds Vx modulo 2^16, with no mask, check or flag.
The wrap at 16 bits is the spec's decision D8. -/
def Obligations.IndexIsSetAndAddedUnmasked : Prop :=
  ∀ (nnn : Addr) (x : Reg) (s : State),
    decode (patternA 0xA000 nnn) = .ok (.ldI nnn) ∧ decode (patternX 0xF01E x) = .ok (.addI x) ∧
    (∃ t, exec (.ldI nnn) s = .next t ∧ t.i.toNat = nnn.toNat ∧ ChangesOnly { index := true } s t) ∧
    (∃ t, exec (.addI x) s = .next t ∧ t.i.toNat = (s.i.toNat + (s.readV x).toNat) % 65536 ∧
      ChangesOnly { index := true } s t)

/-- R172: `Fx29` sets I to FONT_BASE + Vx, unscaled and unchecked, whatever FONT_BASE is, where the core is built with
FONT_SCALE = 1; a core built with FONT_SCALE = 5 multiplies Vx by 5.
The option point is the spec's decision D24. -/
def Obligations.FontPointerFollowsFontScale : Prop :=
  ∀ (x : Reg) (s : State),
    decode (patternX 0xF029 x) = .ok (.ldF x) ∧
    ∃ t, exec (.ldF x) s = .next t ∧ ChangesOnly { index := true } s t ∧
      (s.options.fontScale = .one → t.i.toNat = Config.fontBase.val + (s.readV x).toNat) ∧
      (s.options.fontScale = .five → t.i.toNat = Config.fontBase.val + 5 * (s.readV x).toNat)

/-- R173: `Fx33` stores the three decimal digits of Vx at I, I + 1 and I + 2 and nothing else; from I = 0xFFE on it takes
MEM_RANGE and writes no byte.
The fault is the spec's decision D5. -/
def Obligations.BcdStoresThreeDigits : Prop :=
  ∀ (x : Reg) (s : State),
    decode (patternX 0xF033 x) = .ok (.ldB x) ∧
    (s.i.toNat + 2 ≤ 0xFFF → ∃ t, exec (.ldB x) s = .next t ∧
      ChangesOnly { memFrom := s.i.toNat, memLength := 3 } s t ∧
      (Memory.read t.mem s.i.toNat).toNat = (s.readV x).toNat / 100 ∧
      (Memory.read t.mem (s.i.toNat + 1)).toNat = (s.readV x).toNat / 10 % 10 ∧
      (Memory.read t.mem (s.i.toNat + 2)).toNat = (s.readV x).toNat % 10) ∧
    (s.i.toNat + 2 > 0xFFF → ∃ t, exec (.ldB x) s = .next t ∧ FaultTaken .memRange (patternX 0xF033 x) s t)

/-- R174: `Fx55` stores V0 to Vx at I to I + x and nothing else, I kept; if I + x is above 0xFFF it takes MEM_RANGE and
writes no byte.
The fault is the spec's decision D5, and that I is kept its D30. -/
def Obligations.StoreRegistersWritesInclusiveRange : Prop :=
  ∀ (x : Reg) (s : State),
    decode (patternX 0xF055 x) = .ok (.storeRegs x) ∧
    (s.i.toNat + x.val ≤ 0xFFF → ∃ t, exec (.storeRegs x) s = .next t ∧
      ChangesOnly { memFrom := s.i.toNat, memLength := x.val + 1 } s t ∧
      ∀ r : Reg, r ≤ x → Memory.read t.mem (s.i.toNat + r.val) = s.readV r) ∧
    (s.i.toNat + x.val > 0xFFF → ∃ t, exec (.storeRegs x) s = .next t ∧
      FaultTaken .memRange (patternX 0xF055 x) s t)

/-- R175: `Fx65` loads V0 to Vx from I to I + x and nothing else, I and the registers above x kept; if I + x is above
0xFFF it takes MEM_RANGE and writes no register.
The fault is the spec's decision D5, and that I is kept its D30. -/
def Obligations.LoadRegistersReadsInclusiveRange : Prop :=
  ∀ (x : Reg) (s : State),
    decode (patternX 0xF065 x) = .ok (.loadRegs x) ∧
    (s.i.toNat + x.val ≤ 0xFFF → ∃ t, exec (.loadRegs x) s = .next t ∧
      (∀ r : Reg, r ≤ x → t.readV r = Memory.read s.mem (s.i.toNat + r.val)) ∧
      ChangesOnly { regs := (List.finRange 16).filter (fun r => decide (r ≤ x)) } s t) ∧
    (s.i.toNat + x.val > 0xFFF → ∃ t, exec (.loadRegs x) s = .next t ∧
      FaultTaken .memRange (patternX 0xF065 x) s t)

/-! ## Display (spec/44_display.md) -/

/-- R190: `00E0` clears every pixel and changes nothing else. -/
def Obligations.ClearDisplayZeroesAllPixels : Prop :=
  ∀ s : State,
    decode 0x00E0 = .ok .cls ∧
    ∃ t, exec .cls s = .next t ∧ (∀ px py, Framebuffer.pixel t.fb px py = false) ∧
      ChangesOnly { display := true } s t

/-- R191, R192, R193: the loop of `Dxyn` does to each pixel what the rule says of it alone: a pixel is toggled exactly
when a set sprite bit lands on it, VF is 1 exactly when some such pixel was 1 before the draw, and nothing else
changes; out of range it takes MEM_RANGE with no pixel changed.
The fault is the spec's decision D5, and the bit order its D12. -/
def Obligations.DrawTogglesExactlyTheCoveredPixels : Prop :=
  ∀ (x y : Reg) (n : RowCount) (s : State),
    decode (patternXY (0xD000 + n.val) x y) = .ok (.drw x y n) ∧
    (n.val = 0 ∨ s.i.toNat + n.val - 1 ≤ 0xFFF → ∃ t, exec (.drw x y n) s = .next t ∧
      (∀ px py, SpriteCovers s x y n px py →
        Framebuffer.pixel t.fb px py = !(Framebuffer.pixel s.fb px py)) ∧
      (∀ px py, ¬ SpriteCovers s x y n px py → Framebuffer.pixel t.fb px py = Framebuffer.pixel s.fb px py) ∧
      ((∃ px py, SpriteCovers s x y n px py ∧ Framebuffer.pixel s.fb px py = true) → t.readV 15 = 1) ∧
      ((∀ px py, SpriteCovers s x y n px py → Framebuffer.pixel s.fb px py = false) → t.readV 15 = 0) ∧
      ChangesOnly { regs := [15], display := true } s t) ∧
    (n.val ≠ 0 ∧ s.i.toNat + n.val - 1 > 0xFFF → ∃ t, exec (.drw x y n) s = .next t ∧
      FaultTaken .memRange (patternXY (0xD000 + n.val) x y) s t)

/-- From R191 and R193 (the source's sprite-collision property): the same sprite drawn twice at the same place restores
every pixel; on a clear display the second draw reports a collision exactly when the sprite is not all zero.
x and y are not F, whose register the first draw overwrites. -/
def Obligations.DrawingTwiceRestoresTheDisplay : Prop :=
  ∀ (x y : Reg) (n : RowCount) (s : State), x ≠ 15 → y ≠ 15 → (n.val = 0 ∨ s.i.toNat + n.val - 1 ≤ 0xFFF) →
    ∃ t u, exec (.drw x y n) s = .next t ∧ exec (.drw x y n) t = .next u ∧
      (∀ px py, Framebuffer.pixel u.fb px py = Framebuffer.pixel s.fb px py) ∧
      ((∀ px py, Framebuffer.pixel s.fb px py = false) →
        ((∃ r < n.val, Memory.read s.mem (s.i.toNat + r) ≠ 0) → u.readV 15 = 1) ∧
        ((∀ r < n.val, Memory.read s.mem (s.i.toNat + r) = 0) → u.readV 15 = 0))

/-! ## Timers and keypad (spec/45_timers.md, spec/46_keypad.md) -/

/-- R210, R211, R212: `Fx07` copies DT to Vx, `Fx15` Vx to DT, `Fx18` Vx to ST, each with nothing else changed. -/
def Obligations.TimerInstructionsCopy : Prop :=
  ∀ (x : Reg) (s : State),
    decode (patternX 0xF007 x) = .ok (.ldVxDt x) ∧ decode (patternX 0xF015 x) = .ok (.ldDtVx x) ∧
    decode (patternX 0xF018 x) = .ok (.ldStVx x) ∧
    (∃ t, exec (.ldVxDt x) s = .next t ∧ t.readV x = s.dt ∧ ChangesOnly { regs := [x] } s t) ∧
    (∃ t, exec (.ldDtVx x) s = .next t ∧ t.dt = s.readV x ∧ ChangesOnly { dt := true } s t) ∧
    (∃ t, exec (.ldStVx x) s = .next t ∧ t.st = s.readV x ∧ ChangesOnly { st := true } s t)

/-- R220, R221: `Ex9E` skips when key Vx is pressed and `ExA1` when it is not; a Vx above 15 takes KEY_RANGE.
The fault is the spec's decision D13. -/
def Obligations.KeySkipsTestTheKeyInVx : Prop :=
  ∀ (x : Reg) (s : State),
    decode (patternX 0xE09E x) = .ok (.skp x) ∧ decode (patternX 0xE0A1 x) = .ok (.sknp x) ∧
    (∀ k : Key, (s.readV x).toNat = k.val →
      (∃ t, exec (.skp x) s = .next t ∧ ChangesOnly { pc := true } s t ∧
        (s.key[k] = true → t.pc = s.pc + 2) ∧ (s.key[k] = false → t.pc = s.pc)) ∧
      (∃ t, exec (.sknp x) s = .next t ∧ ChangesOnly { pc := true } s t ∧
        (s.key[k] = false → t.pc = s.pc + 2) ∧ (s.key[k] = true → t.pc = s.pc))) ∧
    ((s.readV x).toNat > 15 →
      (∃ t, exec (.skp x) s = .next t ∧ FaultTaken .keyRange (patternX 0xE09E x) s t) ∧
      (∃ t, exec (.sknp x) s = .next t ∧ FaultTaken .keyRange (patternX 0xE0A1 x) s t))

/-- R222: with no key pressed `Fx0A` only takes PC back to its own word; otherwise Vx is a pressed key, chosen by a
function of the keys pressed alone, and nothing else changes.
Which key is chosen is the spec's open parameter (D14; log entry 3). -/
def Obligations.KeyWaitRewindsOrSelectsAPressedKey : Prop :=
  ∃ select : Vector Bool 16 → Key,
    (∀ key : Vector Bool 16, (∃ k : Key, key[k] = true) → key[select key] = true) ∧
    ∀ (x : Reg) (s : State),
      decode (patternX 0xF00A x) = .ok (.ldVxK x) ∧
      ((∀ k : Key, s.key[k] = false) → ∃ t, exec (.ldVxK x) s = .next t ∧ t.pc = s.pc - 2 ∧
        ChangesOnly { pc := true } s t) ∧
      ((∃ k : Key, s.key[k] = true) → ∃ t, exec (.ldVxK x) s = .next t ∧
        (t.readV x).toNat = (select s.key).val ∧ ChangesOnly { regs := [x] } s t)

/-! ## The step cycle (spec/40_cycle.md) and faults (spec/60_exceptions.md) -/

/-- R103: while FAULT_CODE is not NONE a STEP changes nothing and answers HALTED.
The halted condition is the spec's decision D9. -/
def Obligations.HaltedStepChangesNothing : Prop :=
  ∀ s : State, s.faultCode ≠ .none → step s = .next s ∧ stepResponse s = .halted

/-- From R104 and R107: a PC above 0xFFE takes FETCH_RANGE with the word 0x0000; PC stays, and nothing else changes.
The fault is the spec's decision D6. -/
def Obligations.FetchBeyondMemoryFaults : Prop :=
  ∀ s : State, s.faultCode = .none → s.pc.toNat > 0xFFE →
    step s = .next { s with faultCode := .fetchRange, faultPc := s.pc, faultWord := 0 } ∧
    stepResponse s = .fault .fetchRange

/-- From R104, R105 and R106: when the two bytes at PC, high byte first, decode to an instruction, the step is its
meaning on the state whose PC is `a + 2`. -/
def Obligations.StepRunsDecodedInstruction : Prop :=
  ∀ (s : State) (i : Instr), s.Executes i → step s = exec i { s with pc := s.pc + 2 }

/-- R109: an unknown word changes PC to `a + 2` and nothing else, and is answered with the word.
The response is the spec's decision D10. -/
def Obligations.UnknownWordOnlyAdvancesPc : Prop :=
  ∀ (s : State) (w : Word), s.faultCode = .none → s.pc.toNat ≤ 0xFFE →
    w = bigEndian (Memory.read s.mem s.pc.toNat) (Memory.read s.mem (s.pc.toNat + 1)) →
    decode w = .error (.unknownOpcode w) →
    step s = .next { s with pc := s.pc + 2 } ∧ stepResponse s = .unknown w

/-- R107: whatever the instruction, a step that raises a fault leaves the state it began with, but for the fault record:
the code, the address of the faulting word, and that word (0x0000 for a fetch fault).
The fault record is the spec's decision D9. -/
def Obligations.FaultsArePrecise : Prop :=
  ∀ s t : State, s.faultCode = .none → step s = .next t → t.faultCode ≠ .none →
    t = { s with
      faultCode := t.faultCode
      faultPc := s.pc
      faultWord :=
        if s.pc.toNat > 0xFFE then 0
        else bigEndian (Memory.read s.mem s.pc.toNat) (Memory.read s.mem (s.pc.toNat + 1)) } ∧
    stepResponse s = .fault t.faultCode

/-- R241: each fault code arises from exactly the causes the table gives it, and has its number.
The numbers are the spec's decision D35. -/
def Obligations.FaultCodesHaveExactlyTheirCauses : Prop :=
  (FaultCode.toBits .none = 0 ∧ FaultCode.toBits .stackOverflow = 1 ∧ FaultCode.toBits .stackUnderflow = 2 ∧
    FaultCode.toBits .fetchRange = 3 ∧ FaultCode.toBits .memRange = 4 ∧ FaultCode.toBits .keyRange = 5) ∧
  ∀ s t : State, s.faultCode = .none → step s = .next t →
    (t.faultCode = .stackOverflow ↔ ∃ nnn, s.Executes (.call nnn) ∧ s.sp.val = 16) ∧
    (t.faultCode = .stackUnderflow ↔ s.Executes .ret ∧ s.sp.val = 0) ∧
    (t.faultCode = .fetchRange ↔ s.pc.toNat > 0xFFE) ∧
    (t.faultCode = .memRange ↔
      (∃ x y n, s.Executes (.drw x y n) ∧ n.val ≥ 1 ∧ s.i.toNat + n.val - 1 > 0xFFF) ∨
      (∃ x, s.Executes (.ldB x) ∧ s.i.toNat + 2 > 0xFFF) ∨
      (∃ x, (s.Executes (.storeRegs x) ∨ s.Executes (.loadRegs x)) ∧ s.i.toNat + x.val > 0xFFF)) ∧
    (t.faultCode = .keyRange ↔
      ∃ x, (s.Executes (.skp x) ∨ s.Executes (.sknp x)) ∧ (s.readV x).toNat > 15)

/-- R110: every STEP completes, with exactly one of the four responses and the state change its row gives.
The responses are the spec's decision D10. -/
def Obligations.StepAnswersOneOfFourResponses : Prop :=
  ∀ s : State, ∃ t, step s = .next t ∧
    match stepResponse s with
    | .halted => s.faultCode ≠ .none ∧ t = s
    | .unknown w => s.faultCode = .none ∧ t = { s with pc := s.pc + 2 } ∧
        w = bigEndian (Memory.read s.mem s.pc.toNat) (Memory.read s.mem (s.pc.toNat + 1)) ∧
        decode w = .error (.unknownOpcode w)
    | .fault c => s.faultCode = .none ∧ c ≠ .none ∧
        t = { s with faultCode := c, faultPc := t.faultPc, faultWord := t.faultWord }
    | .ok => ∃ i, s.Executes i ∧ exec i { s with pc := s.pc + 2 } = .next t ∧ t.faultCode = .none

/-- From R12, R35, R101 and R156: the RND argument of a STEP is read by `Cxnn` alone: two STEPs that differ in it agree in every
other part of the state and in the response unless the word executed is `Cxnn`. -/
def Obligations.OnlyRandomReadsTheDraw : Prop :=
  ∀ (s : State) (a b : Byte), (∀ x nn, ¬ s.Executes (.rnd x nn)) →
    ∃ t : State, step (s.withRnd a) = .next (t.withRnd a) ∧ step (s.withRnd b) = .next (t.withRnd b) ∧
      stepResponse (s.withRnd a) = stepResponse (s.withRnd b)

/-! ## Reset, invariants and whole-machine rules -/

/-- R36, R37, R270: the state at power-on and after the command RESET, whatever came before, holds every reset value.
That power-on is reset is the spec's decision D2; the fault register's values are its D9. -/
def Obligations.ResetGivesEveryResetValue : Prop :=
  HasResetValues State.reset ∧
  ∀ s : State, ∃ t, perform .reset s = .next (t, .nothing) ∧ HasResetValues t

/-- From R24, R25, R33 and R36: the reset state is legal. -/
def Obligations.ResetStateIsLegal : Prop := Legal State.reset

/-- From R24, R26, R33, R107 and the memory's canonical form: every step keeps a legal state legal. -/
def Obligations.StepKeepsStateLegal : Prop :=
  ∀ s t : State, Legal s → step s = .next t → Legal t

/-- From R24, R33, R60, R61, R102, R213, R223 and R224: every command of the host, in any order and number, answers each
time and keeps a legal state legal. -/
def Obligations.CommandSequencesKeepStateLegal : Prop :=
  ∀ (cs : List Command) (s : State), Legal s →
    ∃ t answers, performAll cs s = .next (t, answers) ∧ answers.length = cs.length ∧ Legal t

/-- From R35 (and R24, R241): what an instruction may change, for all instructions at once: each part of the state of the
table of R35 changes only under the instructions that the table names as its writers.
PC is the PC after fetch: a jump, a call, a return, a skip or a key wait moves it, and a fault takes it back; the fault
record is written only by a fault that R241 lists for the instruction. -/
def Obligations.StatePartsHaveOnlyTheirWriters : Prop :=
  ∀ (i : Instr) (s t : State), exec i s = .next t →
    (∀ r : Reg, t.readV r ≠ s.readV r → r ∈ writtenRegisters i) ∧
    (t.i ≠ s.i → (∃ nnn, i = .ldI nnn) ∨ (∃ x, i = .addI x) ∨ (∃ x, i = .ldF x)) ∧
    (t.pc ≠ s.pc → movesPc i = true ∨
      (possibleFault i ≠ .none ∧ FaultTaken (possibleFault i) (encode i) s t)) ∧
    (t.sp ≠ s.sp → (∃ nnn, i = .call nnn) ∨ i = .ret) ∧
    (t.stack ≠ s.stack → ∃ nnn, i = .call nnn) ∧
    (t.dt ≠ s.dt → ∃ x, i = .ldDtVx x) ∧
    (t.st ≠ s.st → ∃ x, i = .ldStVx x) ∧
    (t.fb ≠ s.fb → i = .cls ∨ ∃ x y n, i = .drw x y n) ∧
    t.key = s.key ∧
    (t.mem ≠ s.mem → (∃ x, i = .ldB x) ∨ ∃ x, i = .storeRegs x) ∧
    (t.faultCode ≠ s.faultCode ∨ t.faultPc ≠ s.faultPc ∨ t.faultWord ≠ s.faultWord →
      possibleFault i ≠ .none ∧ FaultTaken (possibleFault i) (encode i) s t)

/-- From R22: a flag instruction that is not stopped by a fault leaves 0 or 1 in VF, and an instruction that is not a flag
instruction changes VF only as a destination it names. -/
def Obligations.FlagRegisterHoldsZeroOrOne : Prop :=
  ∀ (i : Instr) (s t : State), s.faultCode = .none → exec i s = .next t →
    (writesFlag i = true → t.faultCode = .none → t.readV 15 = 0 ∨ t.readV 15 = 1) ∧
    (writesFlag i = false → t.readV 15 ≠ s.readV 15 →
      (∃ nn, i = .ldImm 15 nn) ∨ (∃ nn, i = .addImm 15 nn) ∨ (∃ y, i = .ldReg 15 y) ∨ (∃ y, i = .orReg 15 y) ∨
      (∃ y, i = .andReg 15 y) ∨ (∃ y, i = .xorReg 15 y) ∨ (∃ nn, i = .rnd 15 nn) ∨ i = .ldVxDt 15 ∨ i = .ldVxK 15 ∨
      i = .loadRegs 15)

/-- From R121 and R122 (R129, which the spec derives from them): a call resumes after its own word at the matching return: in every run of STEPs from the call's target in which SP
never goes below the level after the call, a RET executed when SP is back at that level goes to the address pushed. -/
def Obligations.ReturnResumesAfterMatchingCall : Prop :=
  ∀ (nnn : Addr) (s : State) (run : Nat → State) (k : Nat),
    s.sp.val < 16 → exec (.call nnn) s = .next (run 0) → StepRun run k →
    (∀ j, j ≤ k → s.sp.val + 1 ≤ (run j).sp.val) → (run k).sp.val = s.sp.val + 1 →
    ∃ v, exec .ret (run k) = .next v ∧ v.pc = s.pc ∧ v.sp = s.sp

/-- From R26: no step observes stack entries at or above SP: two states that differ in those alone step to two states that
differ in those alone, with the same response. -/
def Obligations.StaleStackEntriesAreUnobservable : Prop :=
  ∀ s s' : State, SameButStaleStack s s' →
    ∃ t t', step s = .next t ∧ step s' = .next t' ∧ SameButStaleStack t t' ∧ stepResponse s = stepResponse s'

/-- From R28: no instruction reads ST: changing it changes neither the response nor any other part of the next state. -/
def Obligations.SoundTimerIsUnobservable : Prop :=
  ∀ (s : State) (a : Byte), ∃ t b, step s = .next t ∧ step { s with st := a } = .next { t with st := b } ∧
    stepResponse { s with st := a } = stepResponse s

/-- From R213 and R215: no number of STEPs changes DT or ST unless one of them executes `Fx15` or `Fx18`. -/
def Obligations.StepsLeaveTimersAlone : Prop :=
  ∀ (run : Nat → State) (k : Nat), StepRun run k →
    ((∀ j, j < k → ∀ x, ¬ (run j).Executes (.ldDtVx x)) → (run k).dt = (run 0).dt) ∧
    ((∀ j, j < k → ∀ x, ¬ (run j).Executes (.ldStVx x)) → (run k).st = (run 0).st)

/-- From R277: a faulted core and a parked core stay as they are under any number of STEPs; a parked one stays parked under
TICK, SET_KEY and CLEAR_KEYS. -/
def Obligations.EndedRunsStayEnded : Prop :=
  ∀ s : State,
    ((s.faultCode ≠ .none ∨ s.Parked) → ∀ k, Sys2Proof.core.run k s = .next s) ∧
    (s.Parked → stepResponse s = .ok ∧ s.tick.Parked ∧ s.clearKeys.Parked ∧ ∀ k p, (s.setKey k p).Parked)

/-- From R64: the fetch at an address sees the bytes that `Fx55` has just stored there, high byte first. -/
def Obligations.FetchSeesStoredRegisters : Prop :=
  ∀ (x k : Reg) (s t : State) (h : k.val + 1 ≤ x.val), s.faultCode = .none → s.i.toNat + x.val ≤ 0xFFF →
    exec (.storeRegs x) s = .next t →
    (t.jumpTo (BitVec.ofNat 16 (s.i.toNat + k.val))).fetchWord =
      bigEndian (s.readV k) (s.readV ⟨k.val + 1, by omega⟩)

/-! ## Commands of the host -/

/-- R60, R61: a ROM of at most 3584 bytes is copied to 0x200 and upward and nothing else changes; a longer one is answered
RomTooLarge and changes nothing.
That it may come at any time is the spec's decision D18. -/
def Obligations.LoadRomCopiesAllOrNothing : Prop :=
  ∀ (bytes : List Byte) (s : State),
    (bytes.length ≤ 3584 → ∃ t, perform (.loadRom bytes) s = .next (t, .romOk) ∧
      (∀ k (h : k < bytes.length), Memory.read t.mem (0x200 + k) = bytes[k]) ∧
      ChangesOnly { memFrom := 0x200, memLength := bytes.length } s t) ∧
    (bytes.length > 3584 → perform (.loadRom bytes) s = .next (s, .romTooLarge))

/-- R213: TICK takes one from each timer that is not zero, halted or not, and changes nothing else.
That it works while halted is the spec's decision D29. -/
def Obligations.TickCountsDownToZero : Prop :=
  ∀ s : State, ∃ t, perform .tick s = .next (t, .nothing) ∧ t.dt.toNat = s.dt.toNat - 1 ∧
    t.st.toNat = s.st.toNat - 1 ∧ ChangesOnly { dt := true, st := true } s t

/-- R223, R224: SET_KEY sets the one key and CLEAR_KEYS clears all, halted or not; nothing else changes. -/
def Obligations.KeyCommandsSetTheKeypad : Prop :=
  ∀ s : State,
    (∀ (k : Key) (p : Bool), ∃ t, perform (.setKey k p) s = .next (t, .nothing) ∧ t.key[k] = p ∧
      (∀ j : Key, j ≠ k → t.key[j] = s.key[j]) ∧ ChangesOnly { keys := true } s t) ∧
    (∃ t, perform .clearKeys s = .next (t, .nothing) ∧ (∀ j : Key, t.key[j] = false) ∧
      ChangesOnly { keys := true } s t)

/-- From R111, R195 and R214: READ_FB answers the 2048 pixels, `FB[px, py]` at index `py × 64 + px`, and READ_STATUS the three
fields of the fault register; neither changes the state; ST_OUT is ST. -/
def Obligations.ReadCommandsAnswerTheState : Prop :=
  ∀ s : State,
    (∃ bits : List Bool, perform .readFb s = .next (s, .pixels bits) ∧ bits.length = 2048 ∧
      ∀ (px : Fin 64) (py : Fin 32), bits[py.val * 64 + px.val]? = some (Framebuffer.pixel s.fb px py)) ∧
    perform .readStatus s = .next (s, .status s.faultCode.toBits s.faultPc s.faultWord) ∧
    s.stOut = s.st

/-! ## Encoding and memory form -/

/-- From R81 to R84: decoding the word of any instruction gives that instruction, with every operand. -/
def Obligations.DecodeOfEncodeIsTheInstruction : Prop := ∀ i : Instr, decode (encode i) = .ok i

/-- From R84 and R85: an instruction has one word: a word that decodes to it is its encoding. -/
def Obligations.EncodeOfDecodeIsTheWord : Prop := ∀ (w : Word) (i : Instr), decode w = .ok i → encode i = w

/-- R92: the decoder answers for every word what the search of the opcode table of R84 answers. -/
def Obligations.DecoderFollowsOpcodeTable : Prop := ∀ w : Word, decode w = decodeByTable w

/-- From R84 and R92: there are 34 rows and no word matches two of them. -/
def Obligations.OpcodeRowsAreDisjoint : Prop :=
  opcodeTable.length = 34 ∧
  opcodeTable.Pairwise (fun r q => ∀ w : Word, ¬ (r.matches w = true ∧ q.matches w = true))

/-- R87, R88, R89 (and the sets of R85): the unknown words are exactly those of families 0, 5, 8, 9, E and F that the rules
list.
Families 5 and 9 follow the spec's decision D33. -/
def Obligations.UnknownWordsAreExactlyTheListedSets : Prop :=
  ∀ w : Word, decode w = .error (.unknownOpcode w) ↔
    (w.toNat / 0x1000 = 0x0 ∧ w.toNat ≠ 0x00E0 ∧ w.toNat ≠ 0x00EE) ∨
    (w.toNat / 0x1000 = 0x5 ∧ w.toNat % 0x10 ≠ 0) ∨
    (w.toNat / 0x1000 = 0x8 ∧ w.toNat % 0x10 ∈ [0x8, 0x9, 0xA, 0xB, 0xC, 0xD, 0xF]) ∨
    (w.toNat / 0x1000 = 0x9 ∧ w.toNat % 0x10 ≠ 0) ∨
    (w.toNat / 0x1000 = 0xE ∧ w.toNat % 0x100 ∉ [0x9E, 0xA1]) ∨
    (w.toNat / 0x1000 = 0xF ∧ w.toNat % 0x100 ∉ [0x07, 0x0A, 0x15, 0x18, 0x1E, 0x29, 0x33, 0x55, 0x65])

/-- From R84 and the words of spec/95_test_vectors.md: words of each of the sixteen families that nibble0 selects (R15)
decode to their instructions, and one of family 5 is unknown. -/
def Obligations.WordsOfEachFamilyDecode : Prop :=
  decode 0x00E0 = .ok .cls ∧ decode 0x00EE = .ok .ret ∧ decode 0x1208 = .ok (.jp 0x208) ∧
  decode 0x2300 = .ok (.call 0x300) ∧ decode 0x3342 = .ok (.seImm 3 0x42) ∧ decode 0x4300 = .ok (.sneImm 3 0) ∧
  decode 0x5120 = .ok (.seReg 1 2) ∧ decode 0x5121 = .error (.unknownOpcode 0x5121) ∧
  decode 0x6342 = .ok (.ldImm 3 0x42) ∧ decode 0x7001 = .ok (.addImm 0 1) ∧ decode 0x8124 = .ok (.addReg 1 2) ∧
  decode 0x9120 = .ok (.sneReg 1 2) ∧ decode 0xA123 = .ok (.ldI 0x123) ∧ decode 0xB300 = .ok (.jpV0 0x300) ∧
  decode 0xC30F = .ok (.rnd 3 0x0F) ∧ decode 0xD012 = .ok (.drw 0 1 2) ∧ decode 0xE19E = .ok (.skp 1) ∧
  decode 0xF507 = .ok (.ldVxDt 5) ∧ decode 0xF265 = .ok (.loadRegs 2)

/-- From R50 and R51: memory has one canonical form: two canonical memories that read alike at every address are equal. -/
def Obligations.MemoriesThatReadAlikeAreEqual : Prop :=
  ∀ m m' : Memory, Memory.wf m → Memory.wf m' → (∀ a, Memory.read m a = Memory.read m' a) → m = m'

/-- From R52 and R104 (the model's convention of log entry 12): a word placed by `withFetchWord` is what the very next step
executes, from every state. -/
def Obligations.PlacedWordIsExecutedNext : Prop :=
  ∀ (s : State) (w : Nat) (i : Instr), w < 65536 → decode (BitVec.ofNat 16 w) = .ok i →
    decodeTableWord 16 w = some i ∧
    step (s.withFetchWord 16 w) =
      exec i { s.withFetchWord 16 w with pc := (s.withFetchWord 16 w).pc + 2 }

/-! ## Parameters -/

/-- From R34 and R6: the option points are parameters: no STEP changes them, and no command of the host does, RESET
included; `State.reset` is of the normative core, SHIFT_SRC = VY and FONT_SCALE = 1.
That they stand in State, and so that `State.reset` has a value of them, is the model's choice (log entry 5). -/
def Obligations.OptionPointsNeverChange : Prop :=
  State.reset.options.shiftSrc = .vy ∧ State.reset.options.fontScale = .one ∧
  (∀ s t : State, step s = .next t → t.options = s.options) ∧
  ∀ (c : Command) (s t : State) (a : Answer), perform c s = .next (t, a) → t.options = s.options
end

