-- ==== Sys2Proof/Laws/Encoding.lean ====
section
/-! SUPPORT. The fields of a word put together in one of the formats of R81 are the operands it was made of (R82). -/

namespace Sys2Proof

theorem formA_toNat (op : BitVec 4) (nnn : Addr) : (formA op nnn).toNat = op.toNat * 4096 + nnn.toNat := by
  have h : (formA op nnn).toNat = op.toNat <<< 12 ||| nnn.toNat := BitVec.toNat_append op nnn
  rw [h, ← Nat.shiftLeft_add_eq_or_of_lt nnn.isLt, Nat.shiftLeft_eq]

theorem formXB_toNat (op : BitVec 4) (x : Reg) (nn : Byte) :
    (formXB op x nn).toNat = op.toNat * 4096 + x.val * 256 + nn.toNat := by
  have h : (formXB op x nn).toNat = op.toNat * 4096 + (BitVec.ofFin (w := 4) x ++ nn : BitVec 12).toNat :=
    formA_toNat op _
  have h' : (BitVec.ofFin (w := 4) x ++ nn : BitVec 12).toNat = x.val <<< 8 ||| nn.toNat :=
    BitVec.toNat_append _ _
  rw [h, h', ← Nat.shiftLeft_add_eq_or_of_lt nn.isLt, Nat.shiftLeft_eq]
  omega

theorem formXYN_toNat (op : BitVec 4) (x y : Reg) (n : RowCount) :
    (formXYN op x y n).toNat = op.toNat * 4096 + x.val * 256 + y.val * 16 + n.val := by
  have h : (formXYN op x y n).toNat =
      op.toNat * 4096 + x.val * 256 + (BitVec.ofFin (w := 4) y ++ BitVec.ofFin (w := 4) n : Byte).toNat :=
    formXB_toNat op x _
  have h' : (BitVec.ofFin (w := 4) y ++ BitVec.ofFin (w := 4) n : Byte).toNat = y.val <<< 4 ||| n.val :=
    BitVec.toNat_append _ _
  rw [h, h', ← Nat.shiftLeft_add_eq_or_of_lt n.isLt, Nat.shiftLeft_eq]
  omega

/-! ## Fields as numbers -/

theorem opField_toNat (w : Word) : (opField w).toNat = w.toNat / 4096 := by
  have := w.isLt
  simp [opField, Nat.shiftRight_eq_div_pow]
  omega

theorem xField_val (w : Word) : (xField w).val = w.toNat / 256 % 16 := by
  simp [xField, Nat.shiftRight_eq_div_pow]

theorem yField_val (w : Word) : (yField w).val = w.toNat / 16 % 16 := by
  simp [yField, Nat.shiftRight_eq_div_pow]

theorem nField_val (w : Word) : (nField w).val = w.toNat % 16 := by
  simp [nField]

theorem nnField_toNat (w : Word) : (nnField w).toNat = w.toNat % 256 := by
  simp [nnField]

theorem nnnField_toNat (w : Word) : (nnnField w).toNat = w.toNat % 4096 := by
  simp [nnnField]

/-! ## Fields of the formats -/

@[simp] theorem opField_formA (op : BitVec 4) (nnn : Addr) : opField (formA op nnn) = op := by
  apply BitVec.eq_of_toNat_eq
  have := nnn.isLt
  rw [opField_toNat, formA_toNat]; omega

@[simp] theorem nnnField_formA (op : BitVec 4) (nnn : Addr) : nnnField (formA op nnn) = nnn := by
  apply BitVec.eq_of_toNat_eq
  have := nnn.isLt
  rw [nnnField_toNat, formA_toNat]; omega

@[simp] theorem opField_formXB (op : BitVec 4) (x : Reg) (nn : Byte) : opField (formXB op x nn) = op :=
  opField_formA _ _

@[simp] theorem xField_formXB (op : BitVec 4) (x : Reg) (nn : Byte) : xField (formXB op x nn) = x := by
  apply Fin.ext
  have := nn.isLt
  have := x.isLt
  rw [xField_val, formXB_toNat]; omega

@[simp] theorem nnField_formXB (op : BitVec 4) (x : Reg) (nn : Byte) : nnField (formXB op x nn) = nn := by
  apply BitVec.eq_of_toNat_eq
  have := nn.isLt
  rw [nnField_toNat, formXB_toNat]; omega

@[simp] theorem opField_formXYN (op : BitVec 4) (x y : Reg) (n : RowCount) : opField (formXYN op x y n) = op :=
  opField_formA _ _

@[simp] theorem xField_formXYN (op : BitVec 4) (x y : Reg) (n : RowCount) : xField (formXYN op x y n) = x :=
  xField_formXB _ _ _

@[simp] theorem yField_formXYN (op : BitVec 4) (x y : Reg) (n : RowCount) : yField (formXYN op x y n) = y := by
  apply Fin.ext
  have := x.isLt
  have := y.isLt
  have := n.isLt
  rw [yField_val, formXYN_toNat]; omega

@[simp] theorem nField_formXYN (op : BitVec 4) (x y : Reg) (n : RowCount) : nField (formXYN op x y n) = n := by
  apply Fin.ext
  have := n.isLt
  rw [nField_val, formXYN_toNat]; omega

/-- Two bytes of a word, put together again (R52). -/
theorem bigEndian_bytes (w : Word) : bigEndian (highByte w) (lowByte w) = w := by
  apply BitVec.eq_of_toNat_eq
  have h := BitVec.toNat_append (highByte w) (lowByte w)
  rw [← Nat.shiftLeft_add_eq_or_of_lt (lowByte w).isLt, Nat.shiftLeft_eq] at h
  have hw := w.isLt
  have h1 : (highByte w).toNat = w.toNat / 256 := by
    simp [highByte, Nat.shiftRight_eq_div_pow]; omega
  have h2 : (lowByte w).toNat = w.toNat % 256 := by simp [lowByte]
  unfold bigEndian
  omega

end Sys2Proof
end

