-- ==== Sys2Proof/Laws/Memory.lean ====
section
/-! SUPPORT. The laws of memory: read after write, frames, and that every operation keeps the canonical form
(R10, R50 to R54). -/

namespace Sys2Proof.Machine.Memory

@[simp] theorem read_nil (a : Nat) : read [] a = resetByte a := rfl

theorem read_cons (c : Host.Cell) (m : Memory) (a : Nat) :
    read (c :: m) a = if c.1 = a then c.2 else read m a := rfl

/-- An address that no entry names reads as its reset byte. -/
theorem read_of_not_listed {m : Memory} {a : Nat} (h : ∀ c ∈ m, c.1 ≠ a) : read m a = resetByte a := by
  induction m with
  | nil => rfl
  | cons c m ih =>
    rw [read_cons, if_neg (h c (by simp)), ih fun d hd => h d (by simp [hd])]

theorem read_insert (m : Memory) (a b : Nat) (v : Byte) :
    read (insert m a v) b = if b = a then v else read m b := by
  induction m with
  | nil => simp [insert, read_cons, eq_comm]
  | cons c m ih =>
    by_cases h1 : a < c.1
    · simp [insert, h1, read_cons, eq_comm]
    · by_cases h2 : a = c.1
      · by_cases hb : b = a
        · subst hb; simp [insert, ← h2, read_cons]
        · simp [insert, ← h2, read_cons, hb, Ne.symm hb]
      · simp only [insert, h1, h2, if_false, read_cons, ih]
        by_cases hc : c.1 = b
        · simp [hc, show b ≠ a from fun e => h2 (by omega)]
        · simp [hc]

theorem read_erase (m : Memory) (a b : Nat) :
    read (erase m a) b = if b = a then resetByte a else read m b := by
  by_cases hb : b = a
  · subst hb
    rw [if_pos rfl]
    exact read_of_not_listed fun c hc => by simpa using (List.mem_filter.mp hc).2
  · rw [if_neg hb]
    induction m with
    | nil => rfl
    | cons c m ih =>
      by_cases hc : c.1 = a
      · have : c.1 ≠ b := fun e => hb (by omega)
        simpa [erase, List.filter_cons, hc, read_cons, Ne.symm hb] using ih
      · simp only [erase, List.filter_cons, hc, ne_eq, not_false_eq_true, decide_true, if_true, read_cons]
        simp only [erase, ne_eq] at ih
        rw [ih]

/-- Reading after one byte write: everything the write can do to a read. -/
theorem read_write (m : Memory) (a b : Nat) (v : Byte) :
    read (write m a v) b = if b = a then v else read m b := by
  unfold write
  split
  · next h => rw [read_erase, h]
  · exact read_insert m a b v

/-- Reading outside the bytes written. -/
theorem read_writeBytes_outside (bs : List Byte) :
    ∀ (m : Memory) (a b : Nat), ¬ (a ≤ b ∧ b < a + bs.length) → read (writeBytes m a bs) b = read m b := by
  induction bs with
  | nil => intro m a b _; rfl
  | cons v bs ih =>
    intro m a b h
    simp only [List.length_cons] at h
    rw [writeBytes, ih _ _ _ (by omega), read_write, if_neg (by omega)]

/-- Reading the bytes written. -/
theorem read_writeBytes_inside (bs : List Byte) :
    ∀ (m : Memory) (a k : Nat) (h : k < bs.length), read (writeBytes m a bs) (a + k) = bs[k] := by
  induction bs with
  | nil => intro m a k h; simp at h
  | cons v bs ih =>
    intro m a k h
    cases k with
    | zero => rw [writeBytes, read_writeBytes_outside _ _ _ _ (by omega), Nat.add_zero, read_write, if_pos rfl]; rfl
    | succ k =>
      have := ih (write m a v) (a + 1) k (by simpa using h)
      rw [writeBytes, show a + (k + 1) = a + 1 + k by omega, this]; rfl

@[simp] theorem length_readBytes (m : Memory) (a n : Nat) : (readBytes m a n).length = n := by
  simp [readBytes]

theorem getElem_readBytes (m : Memory) (a n k : Nat) (h : k < (readBytes m a n).length) :
    (readBytes m a n)[k] = read m (a + k) := by
  simp [readBytes]

/-! ## The canonical form -/

theorem wf_nil : wf [] := by simp [wf]

theorem mem_insert {m : Memory} {a : Nat} {v : Byte} {c : Host.Cell} (h : c ∈ insert m a v) :
    c = (a, v) ∨ c ∈ m := by
  induction m with
  | nil => simpa [insert] using h
  | cons d m ih =>
    unfold insert at h
    split at h
    · simpa using h
    · split at h
      · simp only [List.mem_cons] at h ⊢; tauto
      · simp only [List.mem_cons] at h ⊢
        rcases h with h | h
        · exact .inr (.inl h)
        · rcases ih h with h | h
          · exact .inl h
          · exact .inr (.inr h)

theorem rising_insert {m : Memory} (h : m.Pairwise (fun c d => c.1 < d.1)) (a : Nat) (v : Byte) :
    (insert m a v).Pairwise (fun c d => c.1 < d.1) := by
  induction m with
  | nil => simp [insert]
  | cons c m ih =>
    obtain ⟨hc, hm⟩ := List.pairwise_cons.mp h
    unfold insert
    split
    · next h1 =>
      refine List.pairwise_cons.mpr ⟨fun d hd => ?_, h⟩
      rcases List.mem_cons.mp hd with rfl | hd
      · exact h1
      · exact Nat.lt_trans h1 (hc d hd)
    · split
      · next h2 => exact List.pairwise_cons.mpr ⟨fun d hd => by have := hc d hd; simp; omega, hm⟩
      · next h1 h2 =>
        refine List.pairwise_cons.mpr ⟨fun d hd => ?_, ih hm⟩
        rcases mem_insert hd with rfl | hd
        · simp; omega
        · exact hc d hd

/-- A byte write inside the address space keeps the canonical form. -/
theorem wf_write {m : Memory} (h : wf m) {a : Nat} (ha : a < 4096) (v : Byte) : wf (write m a v) := by
  obtain ⟨hs, hv⟩ := h
  unfold write
  split
  · exact ⟨hs.filter _, fun c hc => hv c (List.mem_of_mem_filter hc)⟩
  · next hne =>
    refine ⟨rising_insert hs a v, fun c hc => ?_⟩
    rcases mem_insert hc with rfl | hc
    · exact ⟨ha, hne⟩
    · exact hv c hc

/-- So does a whole range of byte writes. -/
theorem wf_writeBytes (bs : List Byte) :
    ∀ {m : Memory} {a : Nat}, wf m → a + bs.length ≤ 4096 → wf (writeBytes m a bs) := by
  induction bs with
  | nil => intro m a h _; exact h
  | cons v bs ih =>
    intro m a h ha
    simp only [List.length_cons] at ha
    exact ih (wf_write h (by omega) v) (by omega)

/-! ## The reset contents (R36) -/

theorem resetByte_font (k : Fin 80) : resetByte (Config.fontBase.val + k.val) = Config.fontData[k] := by
  have hb := Config.fontBase.isLt
  have hk := k.isLt
  unfold resetByte
  rw [if_neg (by omega), dif_pos (by omega)]
  simp

theorem resetByte_zero {a : Nat} (h : ¬ (Config.fontBase.val ≤ a ∧ a < Config.fontBase.val + 80)) :
    resetByte a = 0 := by
  unfold resetByte
  split <;> rfl

end Sys2Proof.Machine.Memory
end

