-- ==== Sys2Proof/Laws/State.lean ====
section
/-! SUPPORT. What each state update does to each field: one lemma per field per update, true by `rfl`, so that
no later proof unfolds a record update. -/

namespace Sys2Proof.Machine.State

variable (s : State)

@[simp] theorem writeV_mem (x : Reg) (b : Byte) : (s.writeV x b).mem = s.mem := rfl
@[simp] theorem writeV_v (x : Reg) (b : Byte) : (s.writeV x b).v = s.v.set x b := rfl
@[simp] theorem writeV_i (x : Reg) (b : Byte) : (s.writeV x b).i = s.i := rfl
@[simp] theorem writeV_pc (x : Reg) (b : Byte) : (s.writeV x b).pc = s.pc := rfl
@[simp] theorem writeV_sp (x : Reg) (b : Byte) : (s.writeV x b).sp = s.sp := rfl
@[simp] theorem writeV_stack (x : Reg) (b : Byte) : (s.writeV x b).stack = s.stack := rfl
@[simp] theorem writeV_dt (x : Reg) (b : Byte) : (s.writeV x b).dt = s.dt := rfl
@[simp] theorem writeV_st (x : Reg) (b : Byte) : (s.writeV x b).st = s.st := rfl
@[simp] theorem writeV_fb (x : Reg) (b : Byte) : (s.writeV x b).fb = s.fb := rfl
@[simp] theorem writeV_key (x : Reg) (b : Byte) : (s.writeV x b).key = s.key := rfl
@[simp] theorem writeV_faultCode (x : Reg) (b : Byte) : (s.writeV x b).faultCode = s.faultCode := rfl
@[simp] theorem writeV_faultPc (x : Reg) (b : Byte) : (s.writeV x b).faultPc = s.faultPc := rfl
@[simp] theorem writeV_faultWord (x : Reg) (b : Byte) : (s.writeV x b).faultWord = s.faultWord := rfl
@[simp] theorem writeV_rnd (x : Reg) (b : Byte) : (s.writeV x b).rnd = s.rnd := rfl
@[simp] theorem writeV_draws (x : Reg) (b : Byte) : (s.writeV x b).draws = s.draws := rfl
@[simp] theorem writeV_options (x : Reg) (b : Byte) : (s.writeV x b).options = s.options := rfl

@[simp] theorem writeResultAndFlag_mem (x : Reg) (r : Byte) (f : Bool) : (s.writeResultAndFlag x r f).mem = s.mem := rfl
@[simp] theorem writeResultAndFlag_v (x : Reg) (r : Byte) (f : Bool) : (s.writeResultAndFlag x r f).v = (s.v.set x r).set 15 (flagByte f) := rfl
@[simp] theorem writeResultAndFlag_i (x : Reg) (r : Byte) (f : Bool) : (s.writeResultAndFlag x r f).i = s.i := rfl
@[simp] theorem writeResultAndFlag_pc (x : Reg) (r : Byte) (f : Bool) : (s.writeResultAndFlag x r f).pc = s.pc := rfl
@[simp] theorem writeResultAndFlag_sp (x : Reg) (r : Byte) (f : Bool) : (s.writeResultAndFlag x r f).sp = s.sp := rfl
@[simp] theorem writeResultAndFlag_stack (x : Reg) (r : Byte) (f : Bool) : (s.writeResultAndFlag x r f).stack = s.stack := rfl
@[simp] theorem writeResultAndFlag_dt (x : Reg) (r : Byte) (f : Bool) : (s.writeResultAndFlag x r f).dt = s.dt := rfl
@[simp] theorem writeResultAndFlag_st (x : Reg) (r : Byte) (f : Bool) : (s.writeResultAndFlag x r f).st = s.st := rfl
@[simp] theorem writeResultAndFlag_fb (x : Reg) (r : Byte) (f : Bool) : (s.writeResultAndFlag x r f).fb = s.fb := rfl
@[simp] theorem writeResultAndFlag_key (x : Reg) (r : Byte) (f : Bool) : (s.writeResultAndFlag x r f).key = s.key := rfl
@[simp] theorem writeResultAndFlag_faultCode (x : Reg) (r : Byte) (f : Bool) : (s.writeResultAndFlag x r f).faultCode = s.faultCode := rfl
@[simp] theorem writeResultAndFlag_faultPc (x : Reg) (r : Byte) (f : Bool) : (s.writeResultAndFlag x r f).faultPc = s.faultPc := rfl
@[simp] theorem writeResultAndFlag_faultWord (x : Reg) (r : Byte) (f : Bool) : (s.writeResultAndFlag x r f).faultWord = s.faultWord := rfl
@[simp] theorem writeResultAndFlag_rnd (x : Reg) (r : Byte) (f : Bool) : (s.writeResultAndFlag x r f).rnd = s.rnd := rfl
@[simp] theorem writeResultAndFlag_draws (x : Reg) (r : Byte) (f : Bool) : (s.writeResultAndFlag x r f).draws = s.draws := rfl
@[simp] theorem writeResultAndFlag_options (x : Reg) (r : Byte) (f : Bool) : (s.writeResultAndFlag x r f).options = s.options := rfl

@[simp] theorem jumpTo_mem (w : Word) : (s.jumpTo w).mem = s.mem := rfl
@[simp] theorem jumpTo_v (w : Word) : (s.jumpTo w).v = s.v := rfl
@[simp] theorem jumpTo_i (w : Word) : (s.jumpTo w).i = s.i := rfl
@[simp] theorem jumpTo_pc (w : Word) : (s.jumpTo w).pc = w := rfl
@[simp] theorem jumpTo_sp (w : Word) : (s.jumpTo w).sp = s.sp := rfl
@[simp] theorem jumpTo_stack (w : Word) : (s.jumpTo w).stack = s.stack := rfl
@[simp] theorem jumpTo_dt (w : Word) : (s.jumpTo w).dt = s.dt := rfl
@[simp] theorem jumpTo_st (w : Word) : (s.jumpTo w).st = s.st := rfl
@[simp] theorem jumpTo_fb (w : Word) : (s.jumpTo w).fb = s.fb := rfl
@[simp] theorem jumpTo_key (w : Word) : (s.jumpTo w).key = s.key := rfl
@[simp] theorem jumpTo_faultCode (w : Word) : (s.jumpTo w).faultCode = s.faultCode := rfl
@[simp] theorem jumpTo_faultPc (w : Word) : (s.jumpTo w).faultPc = s.faultPc := rfl
@[simp] theorem jumpTo_faultWord (w : Word) : (s.jumpTo w).faultWord = s.faultWord := rfl
@[simp] theorem jumpTo_rnd (w : Word) : (s.jumpTo w).rnd = s.rnd := rfl
@[simp] theorem jumpTo_draws (w : Word) : (s.jumpTo w).draws = s.draws := rfl
@[simp] theorem jumpTo_options (w : Word) : (s.jumpTo w).options = s.options := rfl

@[simp] theorem skipIf_mem (c : Bool) : (s.skipIf c).mem = s.mem := rfl
@[simp] theorem skipIf_v (c : Bool) : (s.skipIf c).v = s.v := rfl
@[simp] theorem skipIf_i (c : Bool) : (s.skipIf c).i = s.i := rfl
@[simp] theorem skipIf_pc (c : Bool) : (s.skipIf c).pc = if c then s.pc + 2 else s.pc := rfl
@[simp] theorem skipIf_sp (c : Bool) : (s.skipIf c).sp = s.sp := rfl
@[simp] theorem skipIf_stack (c : Bool) : (s.skipIf c).stack = s.stack := rfl
@[simp] theorem skipIf_dt (c : Bool) : (s.skipIf c).dt = s.dt := rfl
@[simp] theorem skipIf_st (c : Bool) : (s.skipIf c).st = s.st := rfl
@[simp] theorem skipIf_fb (c : Bool) : (s.skipIf c).fb = s.fb := rfl
@[simp] theorem skipIf_key (c : Bool) : (s.skipIf c).key = s.key := rfl
@[simp] theorem skipIf_faultCode (c : Bool) : (s.skipIf c).faultCode = s.faultCode := rfl
@[simp] theorem skipIf_faultPc (c : Bool) : (s.skipIf c).faultPc = s.faultPc := rfl
@[simp] theorem skipIf_faultWord (c : Bool) : (s.skipIf c).faultWord = s.faultWord := rfl
@[simp] theorem skipIf_rnd (c : Bool) : (s.skipIf c).rnd = s.rnd := rfl
@[simp] theorem skipIf_draws (c : Bool) : (s.skipIf c).draws = s.draws := rfl
@[simp] theorem skipIf_options (c : Bool) : (s.skipIf c).options = s.options := rfl

@[simp] theorem rewind_mem : (s.rewind).mem = s.mem := rfl
@[simp] theorem rewind_v : (s.rewind).v = s.v := rfl
@[simp] theorem rewind_i : (s.rewind).i = s.i := rfl
@[simp] theorem rewind_pc : (s.rewind).pc = s.pc - 2 := rfl
@[simp] theorem rewind_sp : (s.rewind).sp = s.sp := rfl
@[simp] theorem rewind_stack : (s.rewind).stack = s.stack := rfl
@[simp] theorem rewind_dt : (s.rewind).dt = s.dt := rfl
@[simp] theorem rewind_st : (s.rewind).st = s.st := rfl
@[simp] theorem rewind_fb : (s.rewind).fb = s.fb := rfl
@[simp] theorem rewind_key : (s.rewind).key = s.key := rfl
@[simp] theorem rewind_faultCode : (s.rewind).faultCode = s.faultCode := rfl
@[simp] theorem rewind_faultPc : (s.rewind).faultPc = s.faultPc := rfl
@[simp] theorem rewind_faultWord : (s.rewind).faultWord = s.faultWord := rfl
@[simp] theorem rewind_rnd : (s.rewind).rnd = s.rnd := rfl
@[simp] theorem rewind_draws : (s.rewind).draws = s.draws := rfl
@[simp] theorem rewind_options : (s.rewind).options = s.options := rfl

@[simp] theorem setI_mem (a : Word) : (s.setI a).mem = s.mem := rfl
@[simp] theorem setI_v (a : Word) : (s.setI a).v = s.v := rfl
@[simp] theorem setI_i (a : Word) : (s.setI a).i = a := rfl
@[simp] theorem setI_pc (a : Word) : (s.setI a).pc = s.pc := rfl
@[simp] theorem setI_sp (a : Word) : (s.setI a).sp = s.sp := rfl
@[simp] theorem setI_stack (a : Word) : (s.setI a).stack = s.stack := rfl
@[simp] theorem setI_dt (a : Word) : (s.setI a).dt = s.dt := rfl
@[simp] theorem setI_st (a : Word) : (s.setI a).st = s.st := rfl
@[simp] theorem setI_fb (a : Word) : (s.setI a).fb = s.fb := rfl
@[simp] theorem setI_key (a : Word) : (s.setI a).key = s.key := rfl
@[simp] theorem setI_faultCode (a : Word) : (s.setI a).faultCode = s.faultCode := rfl
@[simp] theorem setI_faultPc (a : Word) : (s.setI a).faultPc = s.faultPc := rfl
@[simp] theorem setI_faultWord (a : Word) : (s.setI a).faultWord = s.faultWord := rfl
@[simp] theorem setI_rnd (a : Word) : (s.setI a).rnd = s.rnd := rfl
@[simp] theorem setI_draws (a : Word) : (s.setI a).draws = s.draws := rfl
@[simp] theorem setI_options (a : Word) : (s.setI a).options = s.options := rfl

@[simp] theorem push_mem (r : Word) (h : s.sp.val < 16) : (s.push r h).mem = s.mem := rfl
@[simp] theorem push_v (r : Word) (h : s.sp.val < 16) : (s.push r h).v = s.v := rfl
@[simp] theorem push_i (r : Word) (h : s.sp.val < 16) : (s.push r h).i = s.i := rfl
@[simp] theorem push_pc (r : Word) (h : s.sp.val < 16) : (s.push r h).pc = s.pc := rfl
@[simp] theorem push_sp (r : Word) (h : s.sp.val < 16) : (s.push r h).sp = ⟨s.sp.val + 1, by omega⟩ := rfl
@[simp] theorem push_stack (r : Word) (h : s.sp.val < 16) : (s.push r h).stack = s.stack.set s.sp.val r := rfl
@[simp] theorem push_dt (r : Word) (h : s.sp.val < 16) : (s.push r h).dt = s.dt := rfl
@[simp] theorem push_st (r : Word) (h : s.sp.val < 16) : (s.push r h).st = s.st := rfl
@[simp] theorem push_fb (r : Word) (h : s.sp.val < 16) : (s.push r h).fb = s.fb := rfl
@[simp] theorem push_key (r : Word) (h : s.sp.val < 16) : (s.push r h).key = s.key := rfl
@[simp] theorem push_faultCode (r : Word) (h : s.sp.val < 16) : (s.push r h).faultCode = s.faultCode := rfl
@[simp] theorem push_faultPc (r : Word) (h : s.sp.val < 16) : (s.push r h).faultPc = s.faultPc := rfl
@[simp] theorem push_faultWord (r : Word) (h : s.sp.val < 16) : (s.push r h).faultWord = s.faultWord := rfl
@[simp] theorem push_rnd (r : Word) (h : s.sp.val < 16) : (s.push r h).rnd = s.rnd := rfl
@[simp] theorem push_draws (r : Word) (h : s.sp.val < 16) : (s.push r h).draws = s.draws := rfl
@[simp] theorem push_options (r : Word) (h : s.sp.val < 16) : (s.push r h).options = s.options := rfl

@[simp] theorem pop_mem (h : 0 < s.sp.val) : (s.pop h).mem = s.mem := rfl
@[simp] theorem pop_v (h : 0 < s.sp.val) : (s.pop h).v = s.v := rfl
@[simp] theorem pop_i (h : 0 < s.sp.val) : (s.pop h).i = s.i := rfl
@[simp] theorem pop_pc (h : 0 < s.sp.val) : (s.pop h).pc = s.pc := rfl
@[simp] theorem pop_sp (h : 0 < s.sp.val) : (s.pop h).sp = ⟨s.sp.val - 1, by have := s.sp.isLt; have := h; omega⟩ := rfl
@[simp] theorem pop_stack (h : 0 < s.sp.val) : (s.pop h).stack = s.stack := rfl
@[simp] theorem pop_dt (h : 0 < s.sp.val) : (s.pop h).dt = s.dt := rfl
@[simp] theorem pop_st (h : 0 < s.sp.val) : (s.pop h).st = s.st := rfl
@[simp] theorem pop_fb (h : 0 < s.sp.val) : (s.pop h).fb = s.fb := rfl
@[simp] theorem pop_key (h : 0 < s.sp.val) : (s.pop h).key = s.key := rfl
@[simp] theorem pop_faultCode (h : 0 < s.sp.val) : (s.pop h).faultCode = s.faultCode := rfl
@[simp] theorem pop_faultPc (h : 0 < s.sp.val) : (s.pop h).faultPc = s.faultPc := rfl
@[simp] theorem pop_faultWord (h : 0 < s.sp.val) : (s.pop h).faultWord = s.faultWord := rfl
@[simp] theorem pop_rnd (h : 0 < s.sp.val) : (s.pop h).rnd = s.rnd := rfl
@[simp] theorem pop_draws (h : 0 < s.sp.val) : (s.pop h).draws = s.draws := rfl
@[simp] theorem pop_options (h : 0 < s.sp.val) : (s.pop h).options = s.options := rfl

@[simp] theorem takeFault_mem (c : FaultCode) (w : Word) : (s.takeFault c w).mem = s.mem := rfl
@[simp] theorem takeFault_v (c : FaultCode) (w : Word) : (s.takeFault c w).v = s.v := rfl
@[simp] theorem takeFault_i (c : FaultCode) (w : Word) : (s.takeFault c w).i = s.i := rfl
@[simp] theorem takeFault_pc (c : FaultCode) (w : Word) : (s.takeFault c w).pc = s.pc := rfl
@[simp] theorem takeFault_sp (c : FaultCode) (w : Word) : (s.takeFault c w).sp = s.sp := rfl
@[simp] theorem takeFault_stack (c : FaultCode) (w : Word) : (s.takeFault c w).stack = s.stack := rfl
@[simp] theorem takeFault_dt (c : FaultCode) (w : Word) : (s.takeFault c w).dt = s.dt := rfl
@[simp] theorem takeFault_st (c : FaultCode) (w : Word) : (s.takeFault c w).st = s.st := rfl
@[simp] theorem takeFault_fb (c : FaultCode) (w : Word) : (s.takeFault c w).fb = s.fb := rfl
@[simp] theorem takeFault_key (c : FaultCode) (w : Word) : (s.takeFault c w).key = s.key := rfl
@[simp] theorem takeFault_faultCode (c : FaultCode) (w : Word) : (s.takeFault c w).faultCode = c := rfl
@[simp] theorem takeFault_faultPc (c : FaultCode) (w : Word) : (s.takeFault c w).faultPc = s.pc := rfl
@[simp] theorem takeFault_faultWord (c : FaultCode) (w : Word) : (s.takeFault c w).faultWord = w := rfl
@[simp] theorem takeFault_rnd (c : FaultCode) (w : Word) : (s.takeFault c w).rnd = s.rnd := rfl
@[simp] theorem takeFault_draws (c : FaultCode) (w : Word) : (s.takeFault c w).draws = s.draws := rfl
@[simp] theorem takeFault_options (c : FaultCode) (w : Word) : (s.takeFault c w).options = s.options := rfl

@[simp] theorem raiseFault_mem (c : FaultCode) (i : Instr) : (s.raiseFault c i).mem = s.mem := rfl
@[simp] theorem raiseFault_v (c : FaultCode) (i : Instr) : (s.raiseFault c i).v = s.v := rfl
@[simp] theorem raiseFault_i (c : FaultCode) (i : Instr) : (s.raiseFault c i).i = s.i := rfl
@[simp] theorem raiseFault_pc (c : FaultCode) (i : Instr) : (s.raiseFault c i).pc = s.pc - 2 := rfl
@[simp] theorem raiseFault_sp (c : FaultCode) (i : Instr) : (s.raiseFault c i).sp = s.sp := rfl
@[simp] theorem raiseFault_stack (c : FaultCode) (i : Instr) : (s.raiseFault c i).stack = s.stack := rfl
@[simp] theorem raiseFault_dt (c : FaultCode) (i : Instr) : (s.raiseFault c i).dt = s.dt := rfl
@[simp] theorem raiseFault_st (c : FaultCode) (i : Instr) : (s.raiseFault c i).st = s.st := rfl
@[simp] theorem raiseFault_fb (c : FaultCode) (i : Instr) : (s.raiseFault c i).fb = s.fb := rfl
@[simp] theorem raiseFault_key (c : FaultCode) (i : Instr) : (s.raiseFault c i).key = s.key := rfl
@[simp] theorem raiseFault_faultCode (c : FaultCode) (i : Instr) : (s.raiseFault c i).faultCode = c := rfl
@[simp] theorem raiseFault_faultPc (c : FaultCode) (i : Instr) : (s.raiseFault c i).faultPc = s.pc - 2 := rfl
@[simp] theorem raiseFault_faultWord (c : FaultCode) (i : Instr) : (s.raiseFault c i).faultWord = encode i := rfl
@[simp] theorem raiseFault_rnd (c : FaultCode) (i : Instr) : (s.raiseFault c i).rnd = s.rnd := rfl
@[simp] theorem raiseFault_draws (c : FaultCode) (i : Instr) : (s.raiseFault c i).draws = s.draws := rfl
@[simp] theorem raiseFault_options (c : FaultCode) (i : Instr) : (s.raiseFault c i).options = s.options := rfl

@[simp] theorem nextDraw_mem : (s.nextDraw).mem = s.mem := rfl
@[simp] theorem nextDraw_v : (s.nextDraw).v = s.v := rfl
@[simp] theorem nextDraw_i : (s.nextDraw).i = s.i := rfl
@[simp] theorem nextDraw_pc : (s.nextDraw).pc = s.pc := rfl
@[simp] theorem nextDraw_sp : (s.nextDraw).sp = s.sp := rfl
@[simp] theorem nextDraw_stack : (s.nextDraw).stack = s.stack := rfl
@[simp] theorem nextDraw_dt : (s.nextDraw).dt = s.dt := rfl
@[simp] theorem nextDraw_st : (s.nextDraw).st = s.st := rfl
@[simp] theorem nextDraw_fb : (s.nextDraw).fb = s.fb := rfl
@[simp] theorem nextDraw_key : (s.nextDraw).key = s.key := rfl
@[simp] theorem nextDraw_faultCode : (s.nextDraw).faultCode = s.faultCode := rfl
@[simp] theorem nextDraw_faultPc : (s.nextDraw).faultPc = s.faultPc := rfl
@[simp] theorem nextDraw_faultWord : (s.nextDraw).faultWord = s.faultWord := rfl
@[simp] theorem nextDraw_rnd : (s.nextDraw).rnd = Config.rnd s.draws := rfl
@[simp] theorem nextDraw_draws : (s.nextDraw).draws = s.draws + 1 := rfl
@[simp] theorem nextDraw_options : (s.nextDraw).options = s.options := rfl

@[simp] theorem afterFetch_mem : (s.afterFetch).mem = s.mem := rfl
@[simp] theorem afterFetch_v : (s.afterFetch).v = s.v := rfl
@[simp] theorem afterFetch_i : (s.afterFetch).i = s.i := rfl
@[simp] theorem afterFetch_pc : (s.afterFetch).pc = s.pc + 2 := rfl
@[simp] theorem afterFetch_sp : (s.afterFetch).sp = s.sp := rfl
@[simp] theorem afterFetch_stack : (s.afterFetch).stack = s.stack := rfl
@[simp] theorem afterFetch_dt : (s.afterFetch).dt = s.dt := rfl
@[simp] theorem afterFetch_st : (s.afterFetch).st = s.st := rfl
@[simp] theorem afterFetch_fb : (s.afterFetch).fb = s.fb := rfl
@[simp] theorem afterFetch_key : (s.afterFetch).key = s.key := rfl
@[simp] theorem afterFetch_faultCode : (s.afterFetch).faultCode = s.faultCode := rfl
@[simp] theorem afterFetch_faultPc : (s.afterFetch).faultPc = s.faultPc := rfl
@[simp] theorem afterFetch_faultWord : (s.afterFetch).faultWord = s.faultWord := rfl
@[simp] theorem afterFetch_rnd : (s.afterFetch).rnd = s.rnd := rfl
@[simp] theorem afterFetch_draws : (s.afterFetch).draws = s.draws := rfl
@[simp] theorem afterFetch_options : (s.afterFetch).options = s.options := rfl

end Sys2Proof.Machine.State
end

