-- ==== Sys2Proof/Laws/Registers.lean ====
section
/-! SUPPORT. Reading a general register after an update (R9, R142). -/

namespace Sys2Proof.Machine.State

variable (s : State)

@[simp] theorem readV_writeV_self (x : Reg) (b : Byte) : (s.writeV x b).readV x = b := by
  simp [readV, writeV]

theorem readV_writeV_other {x r : Reg} (b : Byte) (h : r ≠ x) : (s.writeV x b).readV r = s.readV r := by
  have : x.val ≠ r.val := fun e => h (Fin.ext e.symm)
  simp [readV, writeV, this]

/-- Both cases of a register write at once. -/
theorem readV_writeV (x r : Reg) (b : Byte) :
    (s.writeV x b).readV r = if r = x then b else s.readV r := by
  by_cases h : r = x
  · simp [h]
  · simp [h, readV_writeV_other]

/-- The flag stands in VF whatever the destination is (R142). -/
@[simp] theorem readV_writeResultAndFlag_flag (x : Reg) (r : Byte) (f : Bool) :
    (s.writeResultAndFlag x r f).readV 15 = flagByte f :=
  readV_writeV_self _ _ _

theorem readV_writeResultAndFlag_result {x : Reg} (r : Byte) (f : Bool) (h : x ≠ 15) :
    (s.writeResultAndFlag x r f).readV x = r := by
  rw [writeResultAndFlag, readV_writeV_other _ _ h, readV_writeV_self]

theorem readV_writeResultAndFlag_other {x q : Reg} (r : Byte) (f : Bool) (hx : q ≠ x) (hf : q ≠ 15) :
    (s.writeResultAndFlag x r f).readV q = s.readV q := by
  rw [writeResultAndFlag, readV_writeV_other _ _ hf, readV_writeV_other _ _ hx]

/-- A register reads through to the file alone. -/
theorem readV_of_v_eq {s t : State} (h : t.v = s.v) (r : Reg) : t.readV r = s.readV r := by
  simp [readV, h]

theorem readV_loadedRegisters (x r : Reg) :
    State.readV { s with v := loadedRegisters x s } r =
      if r.val ≤ x.val then Memory.read s.mem (s.i.toNat + r.val) else s.readV r := by
  simp [readV, loadedRegisters]

end Sys2Proof.Machine.State
end

