-- ==== Sys2Proof/Laws/Operations.lean ====
section
/-! SUPPORT. What each shared operation can do, said once: the range check, key reading, key selection, the pixel
operations, and the operands' lengths and values. -/

namespace Sys2Proof.Machine

/-- A checked access is the fault or the effect, by the range alone (R10, R59). -/
theorem checkedAccess_cases (s : State) (i : Instr) (n : Nat) (next : State) :
    (OutOfRange s.i.toNat n ∧ s.checkedAccess i n next = s.raiseFault .memRange i) ∨
    (¬ OutOfRange s.i.toNat n ∧ s.checkedAccess i n next = next) := by
  unfold State.checkedAccess
  split
  · next h => exact .inl ⟨h, rfl⟩
  · next h => exact .inr ⟨h, rfl⟩

theorem keyState_of_lt {s : State} {k : Byte} (h : k.toNat < 16) : keyState s k = some s.key[k.toNat] := by
  simp [keyState, h]

theorem keyState_of_ge {s : State} {k : Byte} (h : 16 ≤ k.toNat) : keyState s k = none := by
  simp [keyState, Nat.not_lt.mpr h]

theorem mem_allKeys (k : Key) : k ∈ allKeys := by
  revert k; decide

theorem mem_pressedKeys {key : Vector Bool 16} {k : Key} : k ∈ pressedKeys key ↔ key[k] = true := by
  simp [pressedKeys, mem_allKeys]

/-- KEY_SELECT answers a member of the set (R6, R222). -/
theorem keySelect_mem (key : Vector Bool 16) (k : Key) (ks : List Key) : keySelect key k ks ∈ k :: ks := by
  unfold keySelect
  split
  · simp
  · exact List.getElem_mem _

/-- With exactly one key pressed, KEY_SELECT is that key (R222). -/
@[simp] theorem keySelect_single (key : Vector Bool 16) (k : Key) : keySelect key k [] = k := rfl

/-! ## Pixels -/

/-- A toggled picture differs in the one pixel (R191). -/
theorem pixel_toggle (fb : Framebuffer) (px qx : Fin 64) (py qy : Fin 32) :
    Framebuffer.pixel (Framebuffer.toggle fb px py) qx qy =
      ((Framebuffer.pixel fb qx qy) ^^ decide (qx = px ∧ qy = py)) := by
  by_cases hy : qy = py
  · subst hy
    simp [Framebuffer.pixel, Framebuffer.toggle, Fin.ext_iff, eq_comm]
  · have : py.val ≠ qy.val := fun e => hy (Fin.ext e.symm)
    simp [Framebuffer.pixel, Framebuffer.toggle, hy, this]

@[simp] theorem pixel_clear (px : Fin 64) (py : Fin 32) : Framebuffer.pixel Framebuffer.clear px py = false := by
  simp [Framebuffer.pixel, Framebuffer.clear]

/-- Two framebuffers with the same pixels are equal. -/
theorem framebuffer_ext {a b : Framebuffer} (h : ∀ px py, Framebuffer.pixel a px py = Framebuffer.pixel b px py) :
    a = b := by
  apply Vector.ext
  intro py hy
  apply BitVec.eq_of_getLsbD_eq
  intro px hx
  exact h ⟨px, hx⟩ ⟨py, hy⟩

@[simp] theorem column_val (x0 : Fin 64) (k : Nat) : (column x0 k).val = (x0.val + k) % 64 := rfl

@[simp] theorem row_val (y0 : Fin 32) (r : Nat) : (row y0 r).val = (y0.val + r) % 32 := rfl

@[simp] theorem startColumn_val (b : Byte) : (startColumn b).val = b.toNat % 64 := rfl

@[simp] theorem startRow_val (b : Byte) : (startRow b).val = b.toNat % 32 := rfl

/-! ## Operands -/

@[simp] theorem extendAddr_toNat (nnn : Addr) : (extendAddr nnn).toNat = nnn.toNat := by
  have := nnn.isLt
  simp [extendAddr]
  omega

@[simp] theorem extendByte_toNat (b : Byte) : (extendByte b).toNat = b.toNat := by
  have := b.isLt
  simp [extendByte]
  omega

/-- The shift source of a core built with SHIFT_SRC = VY (R152). -/
theorem shiftOperand_of_vy {s : State} (x y : Reg) (h : s.options.shiftSrc = .vy) :
    shiftOperand x y s = s.readV y := by
  simp only [shiftOperand, h]

/-- The shift source of a core built with SHIFT_SRC = VX (R152). -/
theorem shiftOperand_of_vx {s : State} (x y : Reg) (h : s.options.shiftSrc = .vx) :
    shiftOperand x y s = s.readV x := by
  simp only [shiftOperand, h]

/-- The font pointer never wraps: FONT_BASE is below 0x200 and the scaled byte at most 5 × 255 (R172). -/
theorem fontAddress_toNat (scale : Config.FontScale) (b : Byte) :
    (fontAddress scale b).toNat = Config.fontBase.val + (fontFactor scale).toNat * b.toNat := by
  have hf := Config.fontBase.isLt
  have hb := b.isLt
  have hs : (fontFactor scale).toNat ≤ 5 := by cases scale <;> decide
  have hm : (fontFactor scale).toNat * b.toNat ≤ 5 * 255 := Nat.mul_le_mul hs (by omega)
  rw [fontAddress, BitVec.toNat_add, BitVec.toNat_mul, BitVec.toNat_ofNat, extendByte_toNat]
  omega

@[simp] theorem length_bcdDigits (b : Byte) : (bcdDigits b).length = 3 := rfl

@[simp] theorem length_registersUpTo (x : Reg) (s : State) : (registersUpTo x s).length = x.val + 1 := by
  have := x.isLt
  simp [registersUpTo]

theorem getElem_registersUpTo (x : Reg) (s : State) (k : Nat) (h : k < (registersUpTo x s).length) :
    (registersUpTo x s)[k] = s.readV ⟨k, by have := x.isLt; simp at h; omega⟩ := by
  simp [registersUpTo, State.readV]

@[simp] theorem length_spriteBytes (s : State) (n : RowCount) : (spriteBytes s n).length = n.val := by
  simp [spriteBytes]

@[simp] theorem flagByte_true : flagByte true = 1 := rfl

@[simp] theorem flagByte_false : flagByte false = 0 := rfl

end Sys2Proof.Machine
end

