-- ==== Sys2Proof/Laws/Exec.lean ====
section
/-! SUPPORT. What the meanings can do, said once: the two ways of each that has a check, and of all of them
together. -/

namespace Sys2Proof.Machine

variable {s : State}

theorem execCall_of_room (nnn : Addr) (h : s.sp.val < 16) :
    execCall nnn s = .next ((s.push s.pc h).jumpTo (extendAddr nnn)) := dif_pos h

theorem execCall_of_full (nnn : Addr) (h : ¬ s.sp.val < 16) :
    execCall nnn s = .next (s.raiseFault .stackOverflow (.call nnn)) := dif_neg h

theorem execRet_of_entry (h : 0 < s.sp.val) :
    execRet s = .next ((s.pop h).jumpTo (s.top h)) := dif_pos h

theorem execRet_of_empty (h : ¬ 0 < s.sp.val) :
    execRet s = .next (s.raiseFault .stackUnderflow .ret) := dif_neg h

theorem execSkp_of_key {x : Reg} {p : Bool} (h : keyState s (s.readV x) = some p) :
    execSkp x s = .next (s.skipIf p) := by
  simp only [execSkp, h]

theorem execSkp_of_no_key {x : Reg} (h : keyState s (s.readV x) = none) :
    execSkp x s = .next (s.raiseFault .keyRange (.skp x)) := by
  simp only [execSkp, h]

theorem execSknp_of_key {x : Reg} {p : Bool} (h : keyState s (s.readV x) = some p) :
    execSknp x s = .next (s.skipIf (!p)) := by
  simp only [execSknp, h]

theorem execSknp_of_no_key {x : Reg} (h : keyState s (s.readV x) = none) :
    execSknp x s = .next (s.raiseFault .keyRange (.sknp x)) := by
  simp only [execSknp, h]

theorem execLdVxK_of_none {x : Reg} (h : pressedKeys s.key = []) : execLdVxK x s = .next s.rewind := by
  simp only [execLdVxK, h]

theorem execLdVxK_of_some {x : Reg} {k : Key} {ks : List Key} (h : pressedKeys s.key = k :: ks) :
    execLdVxK x s = .next (s.writeV x (BitVec.ofNat 8 (keySelect s.key k ks).val)) := by
  simp only [execLdVxK, h]

/-- An instruction's effect: it leaves the fault record as it was. -/
def KeepsFaultRecord (s t : State) : Prop :=
  t.faultCode = s.faultCode ∧ t.faultPc = s.faultPc ∧ t.faultWord = s.faultWord

theorem checkedAccess_keeps_or_raises (i : Instr) (n : Nat) {next : State} (h : KeepsFaultRecord s next) :
    KeepsFaultRecord s (s.checkedAccess i n next) ∨
      ∃ c, c ≠ .none ∧ s.checkedAccess i n next = s.raiseFault c i := by
  rcases checkedAccess_cases s i n next with ⟨_, e⟩ | ⟨_, e⟩ <;> rw [e]
  · exact .inr ⟨.memRange, by simp, rfl⟩
  · exact .inl h

/-- Every meaning answers a next state, which either keeps the fault record or is the instruction's own fault. -/
theorem exec_keeps_or_raises (i : Instr) (s : State) :
    ∃ t, exec i s = .next t ∧ (KeepsFaultRecord s t ∨ ∃ c, c ≠ .none ∧ t = s.raiseFault c i) := by
  cases i
  case call nnn =>
    by_cases h : s.sp.val < 16
    · exact ⟨_, execCall_of_room nnn h, .inl ⟨rfl, rfl, rfl⟩⟩
    · exact ⟨_, execCall_of_full nnn h, .inr ⟨_, by simp, rfl⟩⟩
  case ret =>
    by_cases h : 0 < s.sp.val
    · exact ⟨_, execRet_of_entry h, .inl ⟨rfl, rfl, rfl⟩⟩
    · exact ⟨_, execRet_of_empty h, .inr ⟨_, by simp, rfl⟩⟩
  case skp x =>
    cases h : keyState s (s.readV x) with
    | none => exact ⟨_, execSkp_of_no_key h, .inr ⟨_, by simp, rfl⟩⟩
    | some p => exact ⟨_, execSkp_of_key h, .inl ⟨rfl, rfl, rfl⟩⟩
  case sknp x =>
    cases h : keyState s (s.readV x) with
    | none => exact ⟨_, execSknp_of_no_key h, .inr ⟨_, by simp, rfl⟩⟩
    | some p => exact ⟨_, execSknp_of_key h, .inl ⟨rfl, rfl, rfl⟩⟩
  case ldVxK x =>
    cases h : pressedKeys s.key with
    | nil => exact ⟨_, execLdVxK_of_none h, .inl ⟨rfl, rfl, rfl⟩⟩
    | cons k ks => exact ⟨_, execLdVxK_of_some h, .inl ⟨rfl, rfl, rfl⟩⟩
  case ldB x => exact ⟨_, rfl, checkedAccess_keeps_or_raises _ _ ⟨rfl, rfl, rfl⟩⟩
  case storeRegs x => exact ⟨_, rfl, checkedAccess_keeps_or_raises _ _ ⟨rfl, rfl, rfl⟩⟩
  case loadRegs x => exact ⟨_, rfl, checkedAccess_keeps_or_raises _ _ ⟨rfl, rfl, rfl⟩⟩
  case drw x y n => exact ⟨_, rfl, checkedAccess_keeps_or_raises _ _ ⟨rfl, rfl, rfl⟩⟩
  all_goals exact ⟨_, rfl, .inl ⟨rfl, rfl, rfl⟩⟩

end Sys2Proof.Machine
end

