-- ==== Sys2Proof/Laws/PerInstr.lean ====
section
/-! SUPPORT. Per instruction: its word matches a row of the opcode table (R84), one lemma per constructor. -/

namespace Sys2Proof.Laws.MatchesItsRow

/-- The row of R84 that an instruction belongs to: its position in the table, counted from 0. -/
def rowIndex : Instr → Nat
  | .cls => 0 | .ret => 1 | .jp _ => 2 | .call _ => 3 | .seImm _ _ => 4 | .sneImm _ _ => 5 | .seReg _ _ => 6
  | .ldImm _ _ => 7 | .addImm _ _ => 8 | .ldReg _ _ => 9 | .orReg _ _ => 10 | .andReg _ _ => 11
  | .xorReg _ _ => 12 | .addReg _ _ => 13 | .sub _ _ => 14 | .shr _ _ => 15 | .subn _ _ => 16 | .shl _ _ => 17
  | .sneReg _ _ => 18 | .ldI _ => 19 | .jpV0 _ => 20 | .rnd _ _ => 21 | .drw _ _ _ => 22 | .skp _ => 23
  | .sknp _ => 24 | .ldVxDt _ => 25 | .ldVxK _ => 26 | .ldDtVx _ => 27 | .ldStVx _ => 28 | .addI _ => 29
  | .ldF _ => 30 | .ldB _ => 31 | .storeRegs _ => 32 | .loadRegs _ => 33

/-- The instruction's word matches its own row, and the row reads the operands back from it. -/
def Statement (i : Instr) : Prop :=
  ∃ r, opcodeTable[rowIndex i]? = some r ∧ r.matches (encode i) = true ∧ r.build (encode i) = i

/-- Masking away an address (R84's mask 0xF000). -/
theorem mask_formA (op : BitVec 4) (nnn : Addr) : formA op nnn &&& 0xF000 = formA op 0 :=
  calc formA op nnn &&& formA 0xF 0
      = formA (op &&& BitVec.allOnes 4) (nnn &&& 0#12) := BitVec.and_append
    _ = formA op 0 := by rw [BitVec.and_allOnes, BitVec.and_zero]; rfl

/-- Masking away a register (R84's mask 0xF0FF). -/
theorem mask_formXB (op : BitVec 4) (x : Reg) (nn : Byte) : formXB op x nn &&& 0xF0FF = formXB op 0 nn :=
  calc formXB op x nn &&& formXB 0xF 0 0xFF
      = formA (op &&& BitVec.allOnes 4)
          ((BitVec.ofFin (w := 4) x ++ nn : Addr) &&& (BitVec.ofFin (w := 4) 0 ++ BitVec.allOnes 8 : Addr)) :=
        BitVec.and_append
    _ = formA (op &&& BitVec.allOnes 4) ((BitVec.ofFin (w := 4) x &&& 0#4) ++ (nn &&& BitVec.allOnes 8) : Addr) :=
        congrArg (formA _) BitVec.and_append
    _ = formXB op 0 nn := by
        rw [BitVec.and_allOnes, BitVec.and_zero, BitVec.and_allOnes]; rfl

/-- Masking away two registers (R84's mask 0xF00F). -/
theorem mask_formXYN (op : BitVec 4) (x y : Reg) (n : RowCount) :
    formXYN op x y n &&& 0xF00F = formXYN op 0 0 n :=
  calc formXYN op x y n &&& formXYN 0xF 0 0 0xF
      = formA (op &&& BitVec.allOnes 4)
          ((BitVec.ofFin (w := 4) x ++ (BitVec.ofFin (w := 4) y ++ BitVec.ofFin (w := 4) n : Byte) : Addr) &&&
            (0#4 ++ (0#4 ++ BitVec.allOnes 4 : Byte) : Addr)) := BitVec.and_append
    _ = formA (op &&& BitVec.allOnes 4)
          ((BitVec.ofFin (w := 4) x &&& 0#4) ++
            ((BitVec.ofFin (w := 4) y ++ BitVec.ofFin (w := 4) n : Byte) &&& (0#4 ++ BitVec.allOnes 4 : Byte)) : Addr) :=
        congrArg (formA _) BitVec.and_append
    _ = formA (op &&& BitVec.allOnes 4)
          ((BitVec.ofFin (w := 4) x &&& 0#4) ++
            ((BitVec.ofFin (w := 4) y &&& 0#4) ++ (BitVec.ofFin (w := 4) n &&& BitVec.allOnes 4) : Byte) : Addr) :=
        congrArg (fun b => formA _ (_ ++ b : Addr)) BitVec.and_append
    _ = formXYN op 0 0 n := by
        rw [BitVec.and_allOnes, BitVec.and_zero, BitVec.and_zero, BitVec.and_allOnes]; rfl

theorem cls : Statement (.cls) :=
  ⟨_, rfl, rfl, rfl⟩

theorem ret : Statement (.ret) :=
  ⟨_, rfl, rfl, rfl⟩

theorem jp (nnn : Addr) : Statement (.jp nnn) :=
  ⟨_, rfl, by rw [OpcodeRow.matches, encode, mask_formA]; rfl, by simp [encode]⟩

theorem call (nnn : Addr) : Statement (.call nnn) :=
  ⟨_, rfl, by rw [OpcodeRow.matches, encode, mask_formA]; rfl, by simp [encode]⟩

theorem seImm (x : Reg) (nn : Byte) : Statement (.seImm x nn) :=
  ⟨_, rfl, by rw [OpcodeRow.matches, encode, formXB, mask_formA]; rfl, by simp [encode]⟩

theorem sneImm (x : Reg) (nn : Byte) : Statement (.sneImm x nn) :=
  ⟨_, rfl, by rw [OpcodeRow.matches, encode, formXB, mask_formA]; rfl, by simp [encode]⟩

theorem seReg (x y : Reg) : Statement (.seReg x y) :=
  ⟨_, rfl, by rw [OpcodeRow.matches, encode, mask_formXYN]; rfl, by simp [encode]⟩

theorem ldImm (x : Reg) (nn : Byte) : Statement (.ldImm x nn) :=
  ⟨_, rfl, by rw [OpcodeRow.matches, encode, formXB, mask_formA]; rfl, by simp [encode]⟩

theorem addImm (x : Reg) (nn : Byte) : Statement (.addImm x nn) :=
  ⟨_, rfl, by rw [OpcodeRow.matches, encode, formXB, mask_formA]; rfl, by simp [encode]⟩

theorem ldReg (x y : Reg) : Statement (.ldReg x y) :=
  ⟨_, rfl, by rw [OpcodeRow.matches, encode, mask_formXYN]; rfl, by simp [encode]⟩

theorem orReg (x y : Reg) : Statement (.orReg x y) :=
  ⟨_, rfl, by rw [OpcodeRow.matches, encode, mask_formXYN]; rfl, by simp [encode]⟩

theorem andReg (x y : Reg) : Statement (.andReg x y) :=
  ⟨_, rfl, by rw [OpcodeRow.matches, encode, mask_formXYN]; rfl, by simp [encode]⟩

theorem xorReg (x y : Reg) : Statement (.xorReg x y) :=
  ⟨_, rfl, by rw [OpcodeRow.matches, encode, mask_formXYN]; rfl, by simp [encode]⟩

theorem addReg (x y : Reg) : Statement (.addReg x y) :=
  ⟨_, rfl, by rw [OpcodeRow.matches, encode, mask_formXYN]; rfl, by simp [encode]⟩

theorem sub (x y : Reg) : Statement (.sub x y) :=
  ⟨_, rfl, by rw [OpcodeRow.matches, encode, mask_formXYN]; rfl, by simp [encode]⟩

theorem shr (x y : Reg) : Statement (.shr x y) :=
  ⟨_, rfl, by rw [OpcodeRow.matches, encode, mask_formXYN]; rfl, by simp [encode]⟩

theorem subn (x y : Reg) : Statement (.subn x y) :=
  ⟨_, rfl, by rw [OpcodeRow.matches, encode, mask_formXYN]; rfl, by simp [encode]⟩

theorem shl (x y : Reg) : Statement (.shl x y) :=
  ⟨_, rfl, by rw [OpcodeRow.matches, encode, mask_formXYN]; rfl, by simp [encode]⟩

theorem sneReg (x y : Reg) : Statement (.sneReg x y) :=
  ⟨_, rfl, by rw [OpcodeRow.matches, encode, mask_formXYN]; rfl, by simp [encode]⟩

theorem ldI (nnn : Addr) : Statement (.ldI nnn) :=
  ⟨_, rfl, by rw [OpcodeRow.matches, encode, mask_formA]; rfl, by simp [encode]⟩

theorem jpV0 (nnn : Addr) : Statement (.jpV0 nnn) :=
  ⟨_, rfl, by rw [OpcodeRow.matches, encode, mask_formA]; rfl, by simp [encode]⟩

theorem rnd (x : Reg) (nn : Byte) : Statement (.rnd x nn) :=
  ⟨_, rfl, by rw [OpcodeRow.matches, encode, formXB, mask_formA]; rfl, by simp [encode]⟩

theorem drw (x y : Reg) (n : RowCount) : Statement (.drw x y n) :=
  ⟨_, rfl, by rw [OpcodeRow.matches, encode, formXYN, formXB, mask_formA]; rfl, by simp [encode]⟩

theorem skp (x : Reg) : Statement (.skp x) :=
  ⟨_, rfl, by rw [OpcodeRow.matches, encode, mask_formXB]; rfl, by simp [encode]⟩

theorem sknp (x : Reg) : Statement (.sknp x) :=
  ⟨_, rfl, by rw [OpcodeRow.matches, encode, mask_formXB]; rfl, by simp [encode]⟩

theorem ldVxDt (x : Reg) : Statement (.ldVxDt x) :=
  ⟨_, rfl, by rw [OpcodeRow.matches, encode, mask_formXB]; rfl, by simp [encode]⟩

theorem ldVxK (x : Reg) : Statement (.ldVxK x) :=
  ⟨_, rfl, by rw [OpcodeRow.matches, encode, mask_formXB]; rfl, by simp [encode]⟩

theorem ldDtVx (x : Reg) : Statement (.ldDtVx x) :=
  ⟨_, rfl, by rw [OpcodeRow.matches, encode, mask_formXB]; rfl, by simp [encode]⟩

theorem ldStVx (x : Reg) : Statement (.ldStVx x) :=
  ⟨_, rfl, by rw [OpcodeRow.matches, encode, mask_formXB]; rfl, by simp [encode]⟩

theorem addI (x : Reg) : Statement (.addI x) :=
  ⟨_, rfl, by rw [OpcodeRow.matches, encode, mask_formXB]; rfl, by simp [encode]⟩

theorem ldF (x : Reg) : Statement (.ldF x) :=
  ⟨_, rfl, by rw [OpcodeRow.matches, encode, mask_formXB]; rfl, by simp [encode]⟩

theorem ldB (x : Reg) : Statement (.ldB x) :=
  ⟨_, rfl, by rw [OpcodeRow.matches, encode, mask_formXB]; rfl, by simp [encode]⟩

theorem storeRegs (x : Reg) : Statement (.storeRegs x) :=
  ⟨_, rfl, by rw [OpcodeRow.matches, encode, mask_formXB]; rfl, by simp [encode]⟩

theorem loadRegs (x : Reg) : Statement (.loadRegs x) :=
  ⟨_, rfl, by rw [OpcodeRow.matches, encode, mask_formXB]; rfl, by simp [encode]⟩

end Sys2Proof.Laws.MatchesItsRow
end

