-- ==== Sys2Proof/Laws/Step.lean ====
section
/-! SUPPORT. What one step can do, said once (R103 to R113). -/

namespace Sys2Proof.Machine

/-- The fetch check fails exactly when PC is above 0xFFE (R104). -/
theorem fetchFails_iff (s : State) : s.FetchFails ↔ s.pc.toNat > 0xFFE := by
  unfold State.FetchFails OutOfRange
  omega

/-- A step is one of four things, with its response: a halted core stays, a failed fetch check is FETCH_RANGE, an
unknown word advances PC, and an instruction runs on the state after fetch. -/
theorem step_cases (s : State) :
    (s.Halted ∧ step s = .next s ∧ stepResponse s = .halted) ∨
    (¬ s.Halted ∧ s.FetchFails ∧ step s = .next (s.takeFault .fetchRange 0) ∧
      stepResponse s = .fault .fetchRange) ∨
    (¬ s.Halted ∧ ¬ s.FetchFails ∧ (∃ e, decode s.fetchWord = .error e) ∧ step s = .next s.afterFetch ∧
      stepResponse s = .unknown s.fetchWord) ∨
    (¬ s.Halted ∧ ¬ s.FetchFails ∧ ∃ i, decode s.fetchWord = .ok i ∧ step s = exec i s.afterFetch ∧
      stepResponse s = executedResponse (exec i s.afterFetch)) := by
  unfold step stepCycle stepResponse
  by_cases hh : s.Halted
  · exact .inl ⟨hh, if_pos hh, if_pos hh⟩
  · rw [if_neg hh, if_neg hh]
    by_cases hf : s.FetchFails
    · exact .inr (.inl ⟨hh, hf, if_pos hf, if_pos hf⟩)
    · rw [if_neg hf, if_neg hf]
      cases hd : decode s.fetchWord with
      | error e => exact .inr (.inr (.inl ⟨hh, hf, ⟨e, rfl⟩, rfl, rfl⟩))
      | ok i => exact .inr (.inr (.inr ⟨hh, hf, i, rfl, rfl, rfl⟩))

/-- The decoder rejects a word under no other name than UNKNOWN of that word (R92). -/
theorem decode_error {w : Word} {e : DecodeReject} (h : decode w = .error e) : e = .unknownOpcode w := by
  unfold decode decodeFamily0 decodeFamily5 decodeFamily8 decodeFamily9 decodeFamilyE decodeFamilyF at h
  repeat' split at h
  all_goals first
    | (injection h with h; exact h.symm)
    | cases h

end Sys2Proof.Machine
end

