-- ==== Sys2Proof/Tests/Slice0.lean ====
section
/-! SUPPORT. The model's own tests: the checks of WellFormed refuse what is ill formed, words written out from the
patterns of spec/30_encoding.md R84 decode, single steps give the results of the vectors of spec/95_test_vectors.md,
and concrete states meet the hypotheses of the statements. -/

namespace Sys2Proof.Tests

open Sys2Proof Sys2Proof.Machine

/-! ## WellFormed: an ill-formed term for each check -/

theorem test_rom_too_long_refused : romWellFormed (List.replicate 3585 0xAB) = false := by
  rw [romWellFormed, List.length_replicate]
  rfl

theorem test_rom_of_full_length_accepted : romWellFormed (List.replicate 3584 0xAB) = true := by
  rw [romWellFormed, List.length_replicate]
  rfl

theorem test_font_base_beyond_reserved_region_refused : fontBaseOk 433 = false := by decide

theorem test_font_base_always_in_reserved_region : fontBaseOk Config.fontBase.val = true := by
  have := Config.fontBase.isLt
  simp [fontBaseOk]
  omega

/-- Of an instruction nothing can be ill formed (R83, R90); what the decoder refuses is a word. -/
theorem test_every_instruction_well_formed (i : Instr) : i.wellFormed = true := by cases i <;> rfl

/-! ## Decoding: the pattern column of R84 with operands written in -/

theorem test_decode_control :
    decode 0x00E0 = .ok .cls ∧ decode 0x00EE = .ok .ret ∧ decode 0x1208 = .ok (.jp 0x208) ∧
    decode 0x2345 = .ok (.call 0x345) ∧ decode 0x3342 = .ok (.seImm 3 0x42) ∧ decode 0x4A07 = .ok (.sneImm 10 7) ∧
    decode 0x5120 = .ok (.seReg 1 2) ∧ decode 0x9AB0 = .ok (.sneReg 10 11) ∧ decode 0xBFFF = .ok (.jpV0 0xFFF) := by
  decide

theorem test_decode_alu :
    decode 0x6342 = .ok (.ldImm 3 0x42) ∧ decode 0x7F01 = .ok (.addImm 15 1) ∧ decode 0x8120 = .ok (.ldReg 1 2) ∧
    decode 0x8121 = .ok (.orReg 1 2) ∧ decode 0x8122 = .ok (.andReg 1 2) ∧ decode 0x8123 = .ok (.xorReg 1 2) ∧
    decode 0x8F14 = .ok (.addReg 15 1) ∧ decode 0x8125 = .ok (.sub 1 2) ∧ decode 0x8126 = .ok (.shr 1 2) ∧
    decode 0x8127 = .ok (.subn 1 2) ∧ decode 0x812E = .ok (.shl 1 2) ∧ decode 0xC30F = .ok (.rnd 3 0x0F) := by
  decide

theorem test_decode_index_and_display :
    decode 0xA123 = .ok (.ldI 0x123) ∧ decode 0xD012 = .ok (.drw 0 1 2) ∧ decode 0xF41E = .ok (.addI 4) ∧
    decode 0xFA29 = .ok (.ldF 10) ∧ decode 0xF033 = .ok (.ldB 0) ∧ decode 0xF255 = .ok (.storeRegs 2) ∧
    decode 0xF265 = .ok (.loadRegs 2) := by
  decide

theorem test_decode_timers_and_keypad :
    decode 0xE19E = .ok (.skp 1) ∧ decode 0xE1A1 = .ok (.sknp 1) ∧ decode 0xF507 = .ok (.ldVxDt 5) ∧
    decode 0xF30A = .ok (.ldVxK 3) ∧ decode 0xF515 = .ok (.ldDtVx 5) ∧ decode 0xF218 = .ok (.ldStVx 2) := by
  decide

/-- The unknown words of the vectors V-CF-16, V-CF-18, V-AL-30, V-AL-31, V-KP-10, V-CY-02 to V-CY-04. -/
theorem test_decode_unknown :
    decode 0x5121 = .error (.unknownOpcode 0x5121) ∧ decode 0x9128 = .error (.unknownOpcode 0x9128) ∧
    decode 0x8128 = .error (.unknownOpcode 0x8128) ∧ decode 0x812F = .error (.unknownOpcode 0x812F) ∧
    decode 0xE19F = .error (.unknownOpcode 0xE19F) ∧ decode 0x0000 = .error (.unknownOpcode 0x0000) ∧
    decode 0x0123 = .error (.unknownOpcode 0x0123) ∧ decode 0xF0FF = .error (.unknownOpcode 0xF0FF) := by
  decide

/-- Byte sequences: big-endian, and too short a sequence is refused by name (R52, R80). -/
theorem test_decode_bytes :
    decodeBytes [0xA2, 0x00, 0x60] = .ok (.ldI 0x200, [0x60]) ∧ decodeBytes [0xA2] = .error .tooFewBytes ∧
    decodeBytes [] = .error .tooFewBytes ∧ encodeBytes (.drw 10 11 12) = [0xDA, 0xBC] := by
  decide

theorem test_decode_table_word :
    decodeTableWord 16 0x8124 = some (.addReg 1 2) ∧ decodeTableWord 16 0x8128 = none := by decide

/-! ## One step each (spec/95_test_vectors.md) -/

/-- The reset state with `f` done to it and the word `w` at its PC. -/
def given (w : Nat) (f : State → State) : State := (f State.reset).withFetchWord 16 w

/-- The state after one STEP. -/
def after (s : State) : State :=
  match step s with
  | .next t => t
  | .fault _ => s
  | .refused _ => s

/-- Bytes placed in memory. -/
def State.bytesAt (s : State) (a : Nat) (bs : List Byte) : State := { s with mem := Memory.writeBytes s.mem a bs }

open State (bytesAt)

/-- V-CF-01. -/
theorem test_jp : (after (given 0x1208 id)).pc = 0x208 := by decide

/-- V-CF-05. -/
theorem test_call : (after (given 0x2300 id)).pc = 0x300 ∧ (after (given 0x2300 id)).sp = 1 ∧
    (after (given 0x2300 id)).stack[0] = 0x202 := by decide

/-- V-CF-06. -/
theorem test_call_overflow :
    let t := after (given 0x2300 fun s => { s with sp := 16 })
    t.faultCode = .stackOverflow ∧ t.faultPc = 0x200 ∧ t.faultWord = 0x2300 ∧ t.pc = 0x200 ∧ t.sp = 16 := by decide

/-- V-CF-07. -/
theorem test_ret :
    let t := after (given 0x00EE fun s => { s with pc := 0x300, sp := 1, stack := s.stack.set 0 0x202 })
    t.pc = 0x202 ∧ t.sp = 0 ∧ t.stack[0] = 0x202 := by decide

/-- V-CF-08. -/
theorem test_ret_underflow :
    let t := after (given 0x00EE fun s => { s with pc := 0x300 })
    t.faultCode = .stackUnderflow ∧ t.faultPc = 0x300 ∧ t.faultWord = 0x00EE ∧ t.pc = 0x300 := by decide

/-- V-CF-11, V-CF-12. -/
theorem test_se_imm : (after (given 0x3342 (·.writeV 3 0x42))).pc = 0x204 ∧
    (after (given 0x3343 (·.writeV 3 0x42))).pc = 0x202 := by decide

/-- V-CF-13, V-CF-14. -/
theorem test_sne_imm : (after (given 0x4300 (·.writeV 3 0x42))).pc = 0x204 ∧
    (after (given 0x4342 (·.writeV 3 0x42))).pc = 0x202 := by decide

/-- V-CF-15. -/
theorem test_se_reg : (after (given 0x5120 fun s => (s.writeV 1 7).writeV 2 7)).pc = 0x204 := by decide

/-- V-CF-17, V-CF-19. -/
theorem test_sne_reg : (after (given 0x9120 fun s => (s.writeV 1 7).writeV 2 8)).pc = 0x204 ∧
    (after (given 0x9110 (·.writeV 1 9))).pc = 0x202 := by decide

/-- V-CF-21: the sum is not masked. -/
theorem test_jp_v0 : (after (given 0xBFFF (·.writeV 0 1))).pc = 0x1000 := by decide

/-- V-AL-01. -/
theorem test_ld_imm : after (given 0x6342 (·.withRnd 0)) =
    { given 0x6342 (fun s => (s.withRnd 0).writeV 3 0x42) with pc := 0x202 } := by decide

/-- V-AL-03. -/
theorem test_add_imm :
    let t := after (given 0x7001 fun s => (s.writeV 0 0xFF).writeV 15 0x55)
    t.readV 0 = 0 ∧ t.readV 15 = 0x55 := by decide

/-- V-AL-05. -/
theorem test_ld_reg : (after (given 0x8120 (·.writeV 2 0x5A))).readV 1 = 0x5A := by decide

/-- V-AL-06. -/
theorem test_or :
    let t := after (given 0x8121 fun s => ((s.writeV 1 0xF0).writeV 2 0x0F).writeV 15 0x55)
    t.readV 1 = 0xFF ∧ t.readV 15 = 0x55 := by decide

/-- V-AL-07. -/
theorem test_and : (after (given 0x8122 fun s => (s.writeV 1 0xF0).writeV 2 0x3C)).readV 1 = 0x30 := by decide

/-- V-AL-08. -/
theorem test_xor : (after (given 0x8123 fun s => (s.writeV 1 0xF0).writeV 2 0x3C)).readV 1 = 0xCC := by decide

/-- V-AL-10. -/
theorem test_add_reg :
    let t := after (given 0x8124 fun s => (s.writeV 1 0xFF).writeV 2 0x01)
    t.readV 1 = 0 ∧ t.readV 15 = 1 := by decide

/-- V-AL-13: x = F, the flag is written last. -/
theorem test_add_reg_into_vf :
    (after (given 0x8F14 fun s => (s.writeV 1 0xF0).writeV 15 0x10)).readV 15 = 1 := by decide

/-- V-AL-15. -/
theorem test_sub :
    let t := after (given 0x8125 fun s => (s.writeV 1 1).writeV 2 2)
    t.readV 1 = 0xFF ∧ t.readV 15 = 0 := by decide

/-- V-AL-17: equality is no borrow. -/
theorem test_sub_equal :
    let t := after (given 0x8125 fun s => (s.writeV 1 5).writeV 2 5)
    t.readV 1 = 0 ∧ t.readV 15 = 1 := by decide

/-- V-AL-19. -/
theorem test_shr :
    let t := after (given 0x8126 fun s => (s.writeV 1 0xAA).writeV 2 3)
    t.readV 1 = 1 ∧ t.readV 15 = 1 ∧ t.readV 2 = 3 := by decide

/-- V-AL-23. -/
theorem test_subn :
    let t := after (given 0x8127 fun s => (s.writeV 1 1).writeV 2 5)
    t.readV 1 = 4 ∧ t.readV 15 = 1 := by decide

/-- V-AL-25. -/
theorem test_shl :
    let t := after (given 0x812E (·.writeV 2 0x81))
    t.readV 1 = 2 ∧ t.readV 15 = 1 := by decide

/-- R152's alternative: under SHIFT_SRC = VX the source is Vx, and y is ignored. -/
theorem test_shifts_of_vx :
    let t := after (given 0x8126 fun s => ((s.writeV 1 0xAB).writeV 2 0x10).withOptions ⟨.vx, .one⟩)
    let u := after (given 0x812E fun s => ((s.writeV 1 0x81).writeV 2 0x10).withOptions ⟨.vx, .one⟩)
    t.readV 1 = 0x55 ∧ t.readV 15 = 1 ∧ u.readV 1 = 0x02 ∧ u.readV 15 = 1 := by decide

/-- V-AL-28: the draw is the STEP's argument. -/
theorem test_rnd : (after (given 0xC30F (·.withRnd 0xAB))).readV 3 = 0x0B := by decide

/-- V-IX-01. -/
theorem test_ld_i : (after (given 0xA123 id)).i = 0x123 := by decide

/-- V-IX-03, V-IX-04: not masked; 16-bit wrap. -/
theorem test_add_i : (after (given 0xF11E fun s => (s.writeV 1 1).setI 0xFFF)).i = 0x1000 ∧
    (after (given 0xF11E fun s => (s.writeV 1 1).setI 0xFFFF)).i = 0 := by decide

/-- V-IX-F1 and V-IX-F2, for every FONT_BASE. -/
theorem test_ld_f :
    (after (given 0xF029 (·.writeV 0 2))).i = BitVec.ofNat 16 Config.fontBase.val + 2 ∧
    (after (given 0xF029 fun s => (s.writeV 0 2).withOptions ⟨.vy, .five⟩)).i =
      BitVec.ofNat 16 Config.fontBase.val + 10 := ⟨rfl, rfl⟩

/-- V-IX-05. -/
theorem test_ld_b : Memory.readBytes (after (given 0xF033 fun s => (s.writeV 0 0xFE).setI 0x300)).mem 0x300 3
    = [2, 5, 4] := by decide

/-- V-IX-09. -/
theorem test_ld_b_out_of_range :
    let t := after (given 0xF033 fun s => (s.writeV 0 0x7B).setI 0xFFE)
    t.faultCode = .memRange ∧ t.faultPc = 0x200 ∧ t.faultWord = 0xF033 ∧ Memory.read t.mem 0xFFE = 0 := by decide

/-- V-IX-11. -/
theorem test_store_regs :
    let t := after (given 0xF255 fun s => (((s.writeV 0 1).writeV 1 2).writeV 2 3).setI 0x300)
    Memory.readBytes t.mem 0x300 4 = [1, 2, 3, 0] ∧ t.i = 0x300 := by decide

/-- V-IX-13. -/
theorem test_store_regs_out_of_range :
    let t := after (given 0xF155 fun s => ((s.writeV 0 0xAA).writeV 1 0xBB).setI 0xFFF)
    t.faultCode = .memRange ∧ Memory.read t.mem 0xFFF = 0 := by decide

/-- V-IX-15. -/
theorem test_load_regs :
    let t := after (given 0xF165 fun s => bytesAt (s.setI 0xFFE) 0xFFE [0x11, 0x22])
    t.readV 0 = 0x11 ∧ t.readV 1 = 0x22 := by decide

/-- V-IX-16. -/
theorem test_load_regs_out_of_range :
    let t := after (given 0xF265 fun s => bytesAt (s.setI 0xFFE) 0xFFE [0x11, 0x22])
    t.faultCode = .memRange ∧ t.readV 0 = 0 := by decide

/-- V-DS-01. -/
theorem test_cls :
    let t := after (given 0x00E0 fun s => { s.writeV 15 1 with fb := Framebuffer.toggle (Framebuffer.toggle s.fb 0 0) 63 31 })
    t.fb = Framebuffer.clear ∧ t.readV 15 = 1 := by decide

/-- V-DS-03: columns 62, 63, 0, 1, 2, 3, 4, 5. -/
theorem test_drw_wraps :
    let t := after (given 0xD011 fun s => bytesAt ((s.writeV 0 0x3E).setI 0x300) 0x300 [0xFF])
    t.fb = Framebuffer.clear.set 0 0xC00000000000003F ∧ t.readV 15 = 0 := by decide

/-- V-DS-09. -/
theorem test_drw_collision :
    let t := after (given 0xD011 fun s =>
      bytesAt { s.setI 0x300 with fb := Framebuffer.toggle s.fb 1 0 } 0x300 [0xC0])
    t.fb = Framebuffer.clear.set 0 1 ∧ t.readV 15 = 1 := by decide

/-- V-TM-01. -/
theorem test_ld_vx_dt : (after (given 0xF507 fun s => { s with dt := 0x3C })).readV 5 = 0x3C := by decide

/-- V-TM-02. -/
theorem test_ld_dt_vx : (after (given 0xF515 (·.writeV 5 0x3C))).dt = 0x3C := by decide

/-- V-TM-03. -/
theorem test_ld_st_vx : (after (given 0xF218 (·.writeV 2 5))).st = 5 := by decide

/-- V-KP-01, V-KP-02. -/
theorem test_skp : (after (given 0xE19E fun s => (s.writeV 1 5).setKey 5 true)).pc = 0x204 ∧
    (after (given 0xE19E (·.writeV 1 5))).pc = 0x202 := by decide

/-- V-KP-05. -/
theorem test_skp_out_of_range :
    let t := after (given 0xE19E (·.writeV 1 0x10))
    t.faultCode = .keyRange ∧ t.faultWord = 0xE19E ∧ t.pc = 0x200 := by decide

/-- V-KP-03, V-KP-04. -/
theorem test_sknp : (after (given 0xE1A1 (·.writeV 1 5))).pc = 0x204 ∧
    (after (given 0xE1A1 fun s => (s.writeV 1 5).setKey 5 true)).pc = 0x202 := by decide

/-- V-KP-06. -/
theorem test_sknp_out_of_range : (after (given 0xE1A1 (·.writeV 1 0xFF))).faultCode = .keyRange := by decide

/-- V-KP-07: nothing changes. -/
theorem test_key_wait : after (given 0xF30A (·.withRnd 0)) = given 0xF30A (·.withRnd 0) := by decide

/-- V-KP-08. -/
theorem test_key_pressed :
    let t := after (given 0xF30A (·.setKey 0xC true))
    t.readV 3 = 0x0C ∧ t.pc = 0x202 := by decide

/-- V-CY-06, V-CY-07, V-CY-02: fetch fault, halted step, unknown word, with their responses. -/
theorem test_step_responses :
    (after { State.reset with pc := 0xFFF }).faultCode = .fetchRange ∧
    stepResponse { State.reset with pc := 0xFFF } = .fault .fetchRange ∧
    stepResponse { State.reset with faultCode := .stackOverflow } = .halted ∧
    stepResponse State.reset = .unknown 0x0000 ∧ (after State.reset).pc = 0x202 := by decide

/-- V-TK-01, V-TK-04, V-KC-02, V-KC-03. -/
theorem test_commands :
    State.tick { State.reset with dt := 2, faultCode := .stackOverflow } =
      { State.reset with dt := 1, faultCode := .stackOverflow } ∧
    ((State.reset.setKey 10 true).setKey 3 true).setKey 10 false = State.reset.setKey 3 true ∧
    ((State.reset.setKey 10 true).setKey 3 true).clearKeys = State.reset := by
  refine ⟨rfl, ?_, rfl⟩
  simp [State.setKey, State.reset]
  decide

/-! ## Witnesses: concrete states that meet the hypotheses of the statements -/

theorem witness_CallPushesReturnAddress :
    ({ State.reset with sp := 15 } : State).sp.val < 16 ∧ ({ State.reset with sp := 16 } : State).sp.val = 16 := by
  decide

theorem witness_ReturnPopsTopOfStack :
    0 < ({ State.reset with sp := 1 } : State).sp.val ∧ State.reset.sp.val = 0 := by decide

theorem witness_ImmediateSkipsMovePcByTwo :
    (State.reset.writeV 15 0xFF).readV 15 = 0xFF ∧ (State.reset.writeV 15 0xFF).readV 15 ≠ 0xFE := by decide

theorem witness_RegisterSkipsMovePcByTwo :
    0 < 1 ∧ 15 < 16 ∧ (State.reset.writeV 1 0xFF).readV 1 ≠ (State.reset.writeV 1 0xFF).readV 2 ∧
    State.reset.readV 1 = State.reset.readV 2 := by decide

/-- For the statements of AddRegistersSetsCarry, SubtractionsSetNotBorrow and ShiftsTakeVyAndSetShiftedOutBit. -/
theorem witness_ResultRegisterIsNotVF : (14 : Reg) ≠ 15 := by decide

/-- Both values of each option point, for ShiftsTakeVyAndSetShiftedOutBit, ShiftSourceFollowsOptionPoint and
FontPointerFollowsFontScale. -/
theorem witness_OptionPoints :
    (State.reset.options.shiftSrc = .vy ∧ (0 : Byte) = State.reset.readV 2) ∧
    ((State.reset.withOptions ⟨.vx, .five⟩).options.shiftSrc = .vx ∧
      (0 : Byte) = (State.reset.withOptions ⟨.vx, .five⟩).readV 1) ∧
    State.reset.options.fontScale = .one ∧ (State.reset.withOptions ⟨.vx, .five⟩).options.fontScale = .five := by
  decide

/-- A step and a command that answer, from a core with the other option points. -/
theorem witness_OptionPointsNeverChange :
    (∃ t, step (State.reset.withOptions ⟨.vx, .five⟩) = .next t) ∧
    ∃ t, perform .reset (State.reset.withOptions ⟨.vx, .five⟩) = .next (t, .nothing) :=
  ⟨⟨_, rfl⟩, ⟨_, rfl⟩⟩

theorem witness_KeyCommandsSetTheKeypad : (14 : Key) ≠ 15 := by decide

theorem witness_BcdStoresThreeDigits :
    (State.reset.setI 0xFFD).i.toNat + 2 ≤ 0xFFF ∧ (State.reset.setI 0xFFE).i.toNat + 2 > 0xFFF := by decide

theorem witness_StoreRegistersWritesInclusiveRange :
    (State.reset.setI 0xFF0).i.toNat + (15 : Reg).val ≤ 0xFFF ∧
    (State.reset.setI 0xFF1).i.toNat + (15 : Reg).val > 0xFFF := by decide

theorem witness_LoadRegistersReadsInclusiveRange :
    (State.reset.setI 0xFFF).i.toNat + (0 : Reg).val ≤ 0xFFF ∧
    (State.reset.setI 0x1000).i.toNat + (0 : Reg).val > 0xFFF := by decide

theorem witness_DrawTogglesExactlyTheCoveredPixels :
    ((15 : RowCount).val = 0 ∨ (State.reset.setI 0xFF1).i.toNat + (15 : RowCount).val - 1 ≤ 0xFFF) ∧
    ((15 : RowCount).val ≠ 0 ∧ (State.reset.setI 0xFF2).i.toNat + (15 : RowCount).val - 1 > 0xFFF) ∧
    (0 : RowCount).val = 0 := by decide

/-- A sprite bit that lands on a pixel, and a pixel that none lands on. -/
theorem witness_SpriteCovers :
    SpriteCovers (bytesAt (State.reset.setI 0x300) 0x300 [0x80]) 0 0 1 0 0 ∧
    ¬ SpriteCovers (bytesAt (State.reset.setI 0x300) 0x300 [0x80]) 0 0 1 0 1 := by
  refine ⟨⟨0, 0, by decide⟩, ?_⟩
  rintro ⟨r, k, hr, _, _, _, hy⟩
  have : r = 0 := by simp at hr; omega
  subst this
  simp [bytesAt, State.reset, State.readV] at hy

theorem witness_DrawingTwiceRestoresTheDisplay :
    (0 : Reg) ≠ 15 ∧ (1 : Reg) ≠ 15 ∧
    ((1 : RowCount).val = 0 ∨ (State.reset.setI 0xFFF).i.toNat + (1 : RowCount).val - 1 ≤ 0xFFF) ∧
    (∀ px py, Framebuffer.pixel State.reset.fb px py = false) ∧
    (∃ r < (1 : RowCount).val, Memory.read (bytesAt (State.reset.setI 0xFFF) 0xFFF [1]).mem
      ((State.reset.setI 0xFFF).i.toNat + r) ≠ 0) ∧
    (∀ r < (1 : RowCount).val, Memory.read (State.reset.setI 0xFFF).mem ((State.reset.setI 0xFFF).i.toNat + r) = 0) := by
  refine ⟨by decide, by decide, by decide, fun px py => by simp [State.reset, Framebuffer.pixel], ⟨0, by decide⟩, ?_⟩
  decide

theorem witness_KeySkipsTestTheKeyInVx :
    ((State.reset.writeV 1 15).readV 1).toNat = (15 : Key).val ∧ ((State.reset.writeV 1 16).readV 1).toNat > 15 ∧
    (State.reset.setKey 15 true).key[(15 : Key)] = true ∧ State.reset.key[(15 : Key)] = false := by decide

theorem witness_KeyWaitRewindsOrSelectsAPressedKey :
    (∀ k : Key, State.reset.key[k] = false) ∧ (∃ k : Key, (State.reset.setKey 15 true).key[k] = true) :=
  ⟨by decide, 15, by decide⟩

theorem witness_HaltedStepChangesNothing : ({ State.reset with faultCode := .keyRange } : State).faultCode ≠ .none := by
  decide

theorem witness_FetchBeyondMemoryFaults :
    ({ State.reset with pc := 0xFFF } : State).faultCode = .none ∧
    ({ State.reset with pc := 0xFFF } : State).pc.toNat > 0xFFE := by decide

theorem witness_StepRunsDecodedInstruction : (given 0x1208 fun s => { s with pc := 0xFFE }).Executes (.jp 0x208) :=
  ⟨by decide, by decide, by decide⟩

theorem witness_UnknownWordOnlyAdvancesPc :
    let s : State := { State.reset with pc := 0xFFE }
    s.faultCode = .none ∧ s.pc.toNat ≤ 0xFFE ∧
    (0 : Word) = bigEndian (Memory.read s.mem s.pc.toNat) (Memory.read s.mem (s.pc.toNat + 1)) ∧
    decode 0 = .error (.unknownOpcode 0) := by decide

/-- A state whose step raises a fault, for FaultsArePrecise and FaultCodesHaveExactlyTheirCauses. -/
theorem witness_FaultsArePrecise :
    (given 0x00EE id).faultCode = .none ∧
    ∃ t, step (given 0x00EE id) = .next t ∧ t.faultCode ≠ .none := by
  exact ⟨by decide, after (given 0x00EE id), rfl, by decide⟩

/-- Each cause at the edge of its range, and beside it. -/
theorem witness_FaultCodesHaveExactlyTheirCauses :
    (after (given 0x2300 fun s => { s with sp := 16 })).faultCode = .stackOverflow ∧
    (after (given 0x2300 fun s => { s with sp := 15 })).faultCode = .none ∧
    (after (given 0x00EE id)).faultCode = .stackUnderflow ∧
    (after { State.reset with pc := 0xFFF }).faultCode = .fetchRange ∧
    (after { State.reset with pc := 0xFFE }).faultCode = .none ∧
    (after (given 0xD001 (·.setI 0x1000))).faultCode = .memRange ∧
    (after (given 0xD001 (·.setI 0xFFF))).faultCode = .none ∧
    (after (given 0xD000 (·.setI 0xFFFF))).faultCode = .none ∧
    (after (given 0xE19E (·.writeV 1 16))).faultCode = .keyRange ∧
    (after (given 0xE19E (·.writeV 1 15))).faultCode = .none := by decide

theorem witness_OnlyRandomReadsTheDraw : ∀ x nn, ¬ (given 0x1208 id).Executes (.rnd x nn) := by
  rintro x nn ⟨_, _, h⟩
  have h' : decode (bigEndian (Memory.read (given 0x1208 id).mem (given 0x1208 id).pc.toNat)
      (Memory.read (given 0x1208 id).mem ((given 0x1208 id).pc.toNat + 1))) = .ok (.jp 0x208) := by decide
  rw [h'] at h
  cases h

/-- A state inside a subroutine, at the top of memory, with a full stack entry: it is legal and it steps. -/
def inSubroutine : State :=
  given 0x00EE fun s => { s with pc := 0xFFE, sp := 1, stack := s.stack.set 0 0x1000 }

theorem witness_StepKeepsStateLegal : Legal inSubroutine ∧ ∃ t, step inSubroutine = .next t := by
  refine ⟨⟨Memory.wf_writeBytes _ Memory.wf_nil (by decide), by decide, by decide, by decide, by decide⟩,
    after inSubroutine, rfl⟩

/-- The same for sequences of commands. -/
theorem witness_CommandSequencesKeepStateLegal : Legal inSubroutine := witness_StepKeepsStateLegal.1

/-- A register, PC under a jump, and PC with the fault record under a fault. -/
theorem witness_StatePartsHaveOnlyTheirWriters :
    (∃ t, exec (.ldImm 3 0x42) State.reset = .next t ∧ t.readV 3 ≠ State.reset.readV 3) ∧
    (∃ t, exec (.jp 0x208) State.reset = .next t ∧ t.pc ≠ State.reset.pc) ∧
    (∃ t, exec (.ldB 0) (State.reset.setI 0xFFE) = .next t ∧ t.pc ≠ (State.reset.setI 0xFFE).pc ∧
      t.faultCode ≠ (State.reset.setI 0xFFE).faultCode) :=
  ⟨⟨_, rfl, by decide⟩, ⟨_, rfl, by decide⟩, ⟨_, rfl, by decide, by decide⟩⟩

theorem witness_FlagRegisterHoldsZeroOrOne :
    State.reset.faultCode = .none ∧ writesFlag (.addReg 1 2) = true ∧ writesFlag (.ldImm 15 7) = false ∧
    (∃ t, exec (.addReg 1 2) State.reset = .next t ∧ t.faultCode = .none) ∧
    (∃ t, exec (.ldImm 15 7) State.reset = .next t ∧ t.readV 15 ≠ State.reset.readV 15) :=
  ⟨by decide, rfl, rfl, ⟨_, rfl, rfl⟩, ⟨_, rfl, by decide⟩⟩

/-- After the call of a subroutine at 0x300 that is `1300`, a jump to itself. -/
def calledAt0x300 : State := ((bytesAt State.reset 0x300 [0x13, 0x00]).push 0x200 (by decide)).jumpTo 0x300

theorem calledAt0x300_steps_to_itself : step calledAt0x300 = .next calledAt0x300 := rfl

/-- A call whose target is `1300`, a jump to itself: a run of one step at the level after the call. -/
theorem witness_ReturnResumesAfterMatchingCall :
    ∃ run : Nat → State,
      (bytesAt State.reset 0x300 [0x13, 0x00]).sp.val < 16 ∧
      exec (.call 0x300) (bytesAt State.reset 0x300 [0x13, 0x00]) = .next (run 0) ∧ StepRun run 1 ∧
      (∀ j, j ≤ 1 → (bytesAt State.reset 0x300 [0x13, 0x00]).sp.val + 1 ≤ (run j).sp.val) ∧
      (run 1).sp.val = (bytesAt State.reset 0x300 [0x13, 0x00]).sp.val + 1 := by
  refine ⟨fun _ => calledAt0x300, by decide, rfl, fun _ _ => calledAt0x300_steps_to_itself, ?_, by decide⟩
  intro j _
  exact (by decide : (bytesAt State.reset 0x300 [0x13, 0x00]).sp.val + 1 ≤ calledAt0x300.sp.val)

theorem witness_StaleStackEntriesAreUnobservable :
    SameButStaleStack State.reset { State.reset with stack := State.reset.stack.set 0 7 } :=
  ⟨fun k h => absurd h (by simp [State.reset]), rfl⟩

/-- A run of one step that leaves the timers alone. -/
theorem witness_StepsLeaveTimersAlone :
    ∃ run : Nat → State, StepRun run 1 ∧ (∀ j, j < 1 → ∀ x, ¬ (run j).Executes (.ldDtVx x)) ∧
      (∀ j, j < 1 → ∀ x, ¬ (run j).Executes (.ldStVx x)) := by
  refine ⟨fun _ => { State.reset with faultCode := .keyRange }, fun j _ => rfl, ?_, ?_⟩ <;>
  · rintro j _ x ⟨h, _⟩
    cases h

theorem witness_EndedRunsStayEnded :
    ({ State.reset with faultCode := .keyRange } : State).faultCode ≠ .none ∧ (given 0x1200 id).Parked :=
  ⟨by decide, by decide, by decide, by decide⟩

theorem witness_FetchSeesStoredRegisters :
    (0 : Reg).val + 1 ≤ (1 : Reg).val ∧ (State.reset.setI 0xFFE).faultCode = .none ∧
    (State.reset.setI 0xFFE).i.toNat + (1 : Reg).val ≤ 0xFFF ∧
    ∃ t, exec (.storeRegs 1) (State.reset.setI 0xFFE) = .next t :=
  ⟨by decide, by decide, by decide, _, rfl⟩

theorem witness_LoadRomCopiesAllOrNothing :
    (List.replicate 3584 (0xAB : Byte)).length ≤ 3584 ∧ (List.replicate 3585 (0xAB : Byte)).length > 3584 := by
  rw [List.length_replicate, List.length_replicate]
  exact ⟨Nat.le_refl _, Nat.lt_succ_self _⟩

theorem witness_EncodeOfDecodeIsTheWord : decode 0xDABC = .ok (.drw 10 11 12) := by decide

theorem witness_MemoriesThatReadAlikeAreEqual :
    Memory.wf (Memory.write [] 0xFFF 7) ∧
    ∀ a, Memory.read (Memory.write [] 0xFFF 7) a = Memory.read (Memory.write [] 0xFFF 7) a :=
  ⟨Memory.wf_write Memory.wf_nil (by decide) 7, fun _ => rfl⟩

theorem witness_PlacedWordIsExecutedNext : 0xFFFE < 65536 ∧ decode (BitVec.ofNat 16 0xF00A) = .ok (.ldVxK 0) := by
  decide

end Sys2Proof.Tests
end

section
/-! SUPPORT. The scope of the model (spec/00_scope.md R6, R12): the RND argument of STEP is read by `Cxnn` alone, and
the option points are never written. -/

namespace Sys2Proof.Machine

variable {s t : State}

/-! ## A step by the case it falls into (R103 to R106)

`step_cases` lists the four cases; these say what the step is once its case is known. -/

theorem step_of_halted (hh : s.Halted) : step s = .next s ∧ stepResponse s = .halted :=
  ⟨if_pos hh, if_pos hh⟩

theorem step_of_fetchFails (hh : ¬ s.Halted) (hf : s.FetchFails) :
    step s = .next (s.takeFault .fetchRange 0) ∧ stepResponse s = .fault .fetchRange :=
  ⟨(if_neg hh).trans (if_pos hf), (if_neg hh).trans (if_pos hf)⟩

theorem step_of_unknown (hh : ¬ s.Halted) (hf : ¬ s.FetchFails) {e : DecodeReject}
    (hd : decode s.fetchWord = .error e) :
    step s = .next s.afterFetch ∧ stepResponse s = .unknown s.fetchWord := by
  simp only [step, stepCycle, stepResponse, if_neg hh, if_neg hf, hd, and_self]

theorem step_of_instr (hh : ¬ s.Halted) (hf : ¬ s.FetchFails) {i : Instr} (hd : decode s.fetchWord = .ok i) :
    step s = exec i s.afterFetch ∧ stepResponse s = executedResponse (exec i s.afterFetch) := by
  simp only [step, stepCycle, stepResponse, if_neg hh, if_neg hf, hd, and_self]

/-- `Executes` in the terms of the step cycle. -/
theorem executes_iff (s : State) (i : Instr) :
    s.Executes i ↔ ¬ s.Halted ∧ ¬ s.FetchFails ∧ decode s.fetchWord = .ok i := by
  rw [fetchFails_iff, not_lt, not_not]
  rfl

/-! ## The RND argument (R12, R101, R156) -/

/-- A range check does not look at the RND argument: if the effect carries it along, so does the checked effect. -/
theorem checkedAccess_withRnd (s : State) (i : Instr) (n : Nat) {next nextB : State} {b : Byte}
    (h : nextB = next.withRnd b) :
    (s.withRnd b).checkedAccess i n nextB = (s.checkedAccess i n next).withRnd b := by
  subst h
  exact (apply_ite (fun u : State => u.withRnd b) (OutOfRange s.i.toNat n) (s.raiseFault .memRange i) next).symm

/-- Every instruction but `Cxnn` is blind to the RND argument and carries it along. -/
theorem exec_withRnd {i : Instr} (hi : ∀ x nn, i ≠ .rnd x nn) (h : exec i s = .next t) (b : Byte) :
    exec i (s.withRnd b) = .next (t.withRnd b) := by
  cases i
  case rnd x nn => exact absurd rfl (hi x nn)
  case call nnn =>
    by_cases hs : s.sp.val < 16
    · cases (execCall_of_room nnn hs).symm.trans h; exact execCall_of_room (s := s.withRnd b) nnn hs
    · cases (execCall_of_full nnn hs).symm.trans h; exact execCall_of_full (s := s.withRnd b) nnn hs
  case ret =>
    by_cases hs : 0 < s.sp.val
    · cases (execRet_of_entry hs).symm.trans h; exact execRet_of_entry (s := s.withRnd b) hs
    · cases (execRet_of_empty hs).symm.trans h; exact execRet_of_empty (s := s.withRnd b) hs
  case skp x =>
    cases hk : keyState s (s.readV x) with
    | none => cases (execSkp_of_no_key hk).symm.trans h; exact execSkp_of_no_key (s := s.withRnd b) hk
    | some p => cases (execSkp_of_key hk).symm.trans h; exact execSkp_of_key (s := s.withRnd b) hk
  case sknp x =>
    cases hk : keyState s (s.readV x) with
    | none => cases (execSknp_of_no_key hk).symm.trans h; exact execSknp_of_no_key (s := s.withRnd b) hk
    | some p => cases (execSknp_of_key hk).symm.trans h; exact execSknp_of_key (s := s.withRnd b) hk
  case ldVxK x =>
    cases hk : pressedKeys s.key with
    | nil => cases (execLdVxK_of_none hk).symm.trans h; exact execLdVxK_of_none (s := s.withRnd b) hk
    | cons k ks => cases (execLdVxK_of_some hk).symm.trans h; exact execLdVxK_of_some (s := s.withRnd b) hk
  case drw x y n => cases h; exact congrArg Host.Outcome.next (checkedAccess_withRnd s _ _ rfl)
  case ldB x => cases h; exact congrArg Host.Outcome.next (checkedAccess_withRnd s _ _ rfl)
  case storeRegs x => cases h; exact congrArg Host.Outcome.next (checkedAccess_withRnd s _ _ rfl)
  case loadRegs x => cases h; exact congrArg Host.Outcome.next (checkedAccess_withRnd s _ _ rfl)
  all_goals cases h; rfl

/-- A step that executes no `Cxnn` carries the RND argument along, and its response does not depend on it. -/
theorem step_withRnd (hx : ∀ x nn, ¬ s.Executes (.rnd x nn)) (h : step s = .next t) (b : Byte) :
    step (s.withRnd b) = .next (t.withRnd b) ∧ stepResponse (s.withRnd b) = stepResponse s := by
  rcases step_cases s with
    ⟨hh, e, r⟩ | ⟨hh, hf, e, r⟩ | ⟨hh, hf, ⟨_, hd⟩, e, r⟩ | ⟨hh, hf, i, hd, e, r⟩ <;> rw [r]
  · cases e.symm.trans h; exact step_of_halted (s := s.withRnd b) hh
  · cases e.symm.trans h; exact step_of_fetchFails (s := s.withRnd b) hh hf
  · cases e.symm.trans h; exact step_of_unknown (s := s.withRnd b) hh hf hd
  · have hi : ∀ x nn, i ≠ .rnd x nn := fun x nn hi => hx x nn ((executes_iff s _).2 ⟨hh, hf, hi ▸ hd⟩)
    have ht : exec i s.afterFetch = .next t := e.symm.trans h
    have htb : exec i (s.withRnd b).afterFetch = .next (t.withRnd b) := exec_withRnd hi ht b
    obtain ⟨hs, hr⟩ := step_of_instr (s := s.withRnd b) hh hf hd
    rw [hs, hr, htb, ht]
    exact ⟨rfl, rfl⟩

/-- Every step answers a next state (R110). -/
theorem step_answers (s : State) : ∃ t, step s = .next t := by
  rcases step_cases s with ⟨_, e, _⟩ | ⟨_, _, e, _⟩ | ⟨_, _, _, e, _⟩ | ⟨_, _, i, _, e, _⟩
  · exact ⟨_, e⟩
  · exact ⟨_, e⟩
  · exact ⟨_, e⟩
  · obtain ⟨t, ht, _⟩ := exec_keeps_or_raises i s.afterFetch
    exact ⟨t, e.trans ht⟩

/-- Settles O33: the step from the state itself gives the common part of the two. -/
theorem onlyRandomReadsTheDraw : Obligations.OnlyRandomReadsTheDraw := by
  intro s a b hx
  obtain ⟨t, ht⟩ := step_answers s
  obtain ⟨stepA, responseA⟩ := step_withRnd hx ht a
  obtain ⟨stepB, responseB⟩ := step_withRnd hx ht b
  exact ⟨t, stepA, stepB, responseA.trans responseB.symm⟩

/-! ## The option points (R6, R34) -/

theorem checkedAccess_options (i : Instr) (n : Nat) {next : State} (h : next.options = s.options) :
    (s.checkedAccess i n next).options = s.options := by
  rcases checkedAccess_cases s i n next with ⟨_, e⟩ | ⟨_, e⟩ <;> rw [e]
  · exact State.raiseFault_options s _ _
  · exact h

/-- No meaning writes the option points. -/
theorem exec_options {i : Instr} (h : exec i s = .next t) : t.options = s.options := by
  cases i
  case call nnn =>
    by_cases hs : s.sp.val < 16
    · cases (execCall_of_room nnn hs).symm.trans h; rfl
    · cases (execCall_of_full nnn hs).symm.trans h; rfl
  case ret =>
    by_cases hs : 0 < s.sp.val
    · cases (execRet_of_entry hs).symm.trans h; rfl
    · cases (execRet_of_empty hs).symm.trans h; rfl
  case skp x =>
    cases hk : keyState s (s.readV x) with
    | none => cases (execSkp_of_no_key hk).symm.trans h; rfl
    | some p => cases (execSkp_of_key hk).symm.trans h; rfl
  case sknp x =>
    cases hk : keyState s (s.readV x) with
    | none => cases (execSknp_of_no_key hk).symm.trans h; rfl
    | some p => cases (execSknp_of_key hk).symm.trans h; rfl
  case ldVxK x =>
    cases hk : pressedKeys s.key with
    | nil => cases (execLdVxK_of_none hk).symm.trans h; rfl
    | cons k ks => cases (execLdVxK_of_some hk).symm.trans h; rfl
  case drw x y n => cases h; exact checkedAccess_options _ _ rfl
  case ldB x => cases h; exact checkedAccess_options _ _ rfl
  case storeRegs x => cases h; exact checkedAccess_options _ _ rfl
  case loadRegs x => cases h; exact checkedAccess_options _ _ rfl
  all_goals cases h; rfl

theorem step_options (h : step s = .next t) : t.options = s.options := by
  rcases step_cases s with ⟨_, e, _⟩ | ⟨_, _, e, _⟩ | ⟨_, _, _, e, _⟩ | ⟨_, _, i, _, e, _⟩
  · cases e.symm.trans h; rfl
  · cases e.symm.trans h; rfl
  · cases e.symm.trans h; rfl
  · exact exec_options (s := s.afterFetch) (e.symm.trans h)

/-- The command STEP(rnd) is a step of the state that holds the argument, with the response of that step (R101). -/
theorem step_of_perform_step {b : Byte} {a : Answer} (h : perform (.step b) s = .next (t, a)) :
    step (s.withRnd b) = .next t ∧ a = .step (stepResponse (s.withRnd b)) := by
  obtain ⟨u, hu⟩ := step_answers (s.withRnd b)
  simp only [perform, hu] at h
  cases h
  exact ⟨hu, rfl⟩

theorem perform_loadRom_of_fits {bytes : List Byte} (h : romWellFormed bytes = true) :
    perform (.loadRom bytes) s = .next (s.loadRom bytes, .romOk) := if_pos h

theorem perform_loadRom_of_tooLarge {bytes : List Byte} (h : ¬ romWellFormed bytes = true) :
    perform (.loadRom bytes) s = .next (s, .romTooLarge) := if_neg h

theorem perform_options {c : Command} {a : Answer} (h : perform c s = .next (t, a)) : t.options = s.options := by
  cases c
  case step b =>
    obtain ⟨hs, _⟩ := step_of_perform_step h
    exact step_options (s := s.withRnd b) hs
  case loadRom bytes =>
    by_cases hb : romWellFormed bytes = true
    · cases (perform_loadRom_of_fits hb).symm.trans h; rfl
    · cases (perform_loadRom_of_tooLarge hb).symm.trans h; rfl
  all_goals cases h; rfl

/-- Settles O58: no meaning, hence no step, and no command writes the option points. -/
theorem optionPointsNeverChange : Obligations.OptionPointsNeverChange :=
  ⟨rfl, rfl, fun _ _ => step_options, fun _ _ _ _ => perform_options⟩

end Sys2Proof.Machine
end

section
/-! SUPPORT. The state of the core (spec/10_state.md R20 to R37): its reset values, which instruction writes which
part of it, the legal states, and the parts that no instruction reads. -/

namespace Sys2Proof.Machine

variable {s t : State} {i : Instr}

/-! ## What an instruction does to the state, said once

Every proof below that asks what a meaning writes splits along the constructors of `Effect` and unfolds no meaning. -/

/-- The ways in which the instruction `i` turns the state after fetch `s` into the next state (R35, R107). -/
inductive Effect (s : State) : Instr → State → Prop where
  | fault {i : Instr} {c : FaultCode} (raised : c ≠ .none) (listed : possibleFault i = c) :
      Effect s i (s.raiseFault c i)
  | result {i : Instr} {x : Reg} (b : Byte) (dest : x ∈ writtenRegisters i) (noFlag : writesFlag i = false) :
      Effect s i (s.writeV x b)
  | resultAndFlag {i : Instr} {x : Reg} (r : Byte) (f : Bool) (dest : writtenRegisters i = [x, 15]) :
      Effect s i (s.writeResultAndFlag x r f)
  | random (x : Reg) (nn : Byte) : Effect s (.rnd x nn) (s.writeV x (s.rnd &&& nn)).nextDraw
  | load (x : Reg) : Effect s (.loadRegs x) { s with v := loadedRegisters x s }
  | jump {i : Instr} {target : Word} (bound : target.toNat ≤ 0x10FE) (moves : movesPc i = true) :
      Effect s i (s.jumpTo target)
  | skip {i : Instr} (c : Bool) (moves : movesPc i = true) : Effect s i (s.skipIf c)
  | keyWait (x : Reg) : Effect s (.ldVxK x) s.rewind
  | call (nnn : Addr) (room : s.sp.val < 16) : Effect s (.call nnn) ((s.push s.pc room).jumpTo (extendAddr nnn))
  | ret (entry : 0 < s.sp.val) : Effect s .ret ((s.pop entry).jumpTo (s.top entry))
  | clear : Effect s .cls { s with fb := Framebuffer.clear }
  | draw (x y : Reg) (n : RowCount) (fb : Framebuffer) (f : Bool) :
      Effect s (.drw x y n) (State.writeV { s with fb := fb } 15 (flagByte f))
  | index {i : Instr} (a : Word) (writer : (∃ nnn, i = .ldI nnn) ∨ (∃ x, i = .addI x) ∨ (∃ x, i = .ldF x)) :
      Effect s i (s.setI a)
  | delayTimer (x : Reg) : Effect s (.ldDtVx x) { s with dt := s.readV x }
  | soundTimer (x : Reg) : Effect s (.ldStVx x) { s with st := s.readV x }
  | store {i : Instr} {a : Nat} {bs : List Byte} (range : a + bs.length ≤ 4096)
      (writer : (∃ x, i = .ldB x) ∨ ∃ x, i = .storeRegs x) : Effect s i { s with mem := Memory.writeBytes s.mem a bs }

/-- An access that passes its range check has its effect; one that fails it is MEM_RANGE (R10, R59). -/
theorem checkedAccess_effect {n : Nat} {next : State} (listed : possibleFault i = .memRange)
    (h : ¬ OutOfRange s.i.toNat n → Effect s i next) : Effect s i (s.checkedAccess i n next) := by
  rcases checkedAccess_cases s i n next with ⟨_, e⟩ | ⟨hr, e⟩ <;> rw [e]
  · exact .fault (by simp) listed
  · exact h hr

/-- An access of all its bytes in range ends at 0xFFF at the latest (R10). -/
theorem range_of_not_outOfRange {a n : Nat} (h : ¬ OutOfRange a (n + 1)) : a + (n + 1) ≤ 4096 := by
  unfold OutOfRange at h; omega

/-- `Bnnn` reaches 0xFFF + 0xFF at most (R24, R127). -/
theorem jumpWithOffset_le (nnn : Addr) (b : Byte) : (extendAddr nnn + extendByte b).toNat ≤ 0x10FE := by
  have := nnn.isLt
  have := b.isLt
  rw [BitVec.toNat_add, extendAddr_toNat, extendByte_toNat]
  omega

theorem extendAddr_le (nnn : Addr) : (extendAddr nnn).toNat ≤ 0x10FE := by
  have := nnn.isLt
  rw [extendAddr_toNat]
  omega

/-- Every meaning has one of the effects. -/
theorem exec_effect (h : exec i s = .next t) : Effect s i t := by
  cases i
  case call nnn =>
    by_cases hs : s.sp.val < 16
    · cases (execCall_of_room nnn hs).symm.trans h; exact .call nnn hs
    · cases (execCall_of_full nnn hs).symm.trans h; exact .fault (by simp) rfl
  case ret =>
    by_cases hs : 0 < s.sp.val
    · cases (execRet_of_entry hs).symm.trans h; exact .ret hs
    · cases (execRet_of_empty hs).symm.trans h; exact .fault (by simp) rfl
  case skp x =>
    cases hk : keyState s (s.readV x) with
    | none => cases (execSkp_of_no_key hk).symm.trans h; exact .fault (by simp) rfl
    | some p => cases (execSkp_of_key hk).symm.trans h; exact .skip _ rfl
  case sknp x =>
    cases hk : keyState s (s.readV x) with
    | none => cases (execSknp_of_no_key hk).symm.trans h; exact .fault (by simp) rfl
    | some p => cases (execSknp_of_key hk).symm.trans h; exact .skip _ rfl
  case ldVxK x =>
    cases hk : pressedKeys s.key with
    | nil => cases (execLdVxK_of_none hk).symm.trans h; exact .keyWait x
    | cons k ks => cases (execLdVxK_of_some hk).symm.trans h; exact .result _ (.head _) rfl
  case drw x y n => cases h; exact checkedAccess_effect rfl fun _ => .draw x y n _ _
  case ldB x => cases h; exact checkedAccess_effect rfl fun hr => .store (range_of_not_outOfRange hr) (.inl ⟨x, rfl⟩)
  case storeRegs x =>
    cases h
    refine checkedAccess_effect rfl fun hr => .store ?_ (.inr ⟨x, rfl⟩)
    rw [length_registersUpTo]
    exact range_of_not_outOfRange hr
  case loadRegs x => cases h; exact checkedAccess_effect rfl fun _ => .load x
  case cls => cases h; exact .clear
  case jp nnn => cases h; exact .jump (extendAddr_le nnn) rfl
  case jpV0 nnn => cases h; exact .jump (jumpWithOffset_le nnn _) rfl
  case seImm | sneImm | seReg | sneReg => cases h; exact .skip _ rfl
  case ldImm | addImm | ldReg | orReg | andReg | xorReg | ldVxDt => cases h; exact .result _ (.head _) rfl
  case addReg | sub | shr | subn | shl => cases h; exact .resultAndFlag _ _ rfl
  case rnd x nn => cases h; exact .random x nn
  case ldI nnn => cases h; exact .index _ (.inl ⟨nnn, rfl⟩)
  case addI x => cases h; exact .index _ (.inr (.inl ⟨x, rfl⟩))
  case ldF x => cases h; exact .index _ (.inr (.inr ⟨x, rfl⟩))
  case ldDtVx x => cases h; exact .delayTimer x
  case ldStVx x => cases h; exact .soundTimer x

/-! ## Each part of the state and its writers (R35) -/

/-- The fault of an instruction, seen from inside it (R107). -/
theorem raiseFault_faultTaken (s : State) (c : FaultCode) (i : Instr) :
    FaultTaken c (encode i) s (s.raiseFault c i) where
  code := rfl
  atPc := rfl
  word := rfl
  pc := rfl
  frame :=
    { regs := fun _ _ => rfl, index := fun _ => rfl, pc := nofun, sp := fun _ => rfl, stack := fun _ _ => rfl,
      dt := fun _ => rfl, st := fun _ => rfl, display := fun _ _ _ => rfl, keys := fun _ _ => rfl,
      faultRecord := nofun, randomInput := fun _ => ⟨rfl, rfl⟩, options := rfl, mem := fun _ _ => rfl }

namespace Effect

theorem register_written (h : Effect s i t) (r : Reg) (hr : t.readV r ≠ s.readV r) : r ∈ writtenRegisters i := by
  by_contra hn
  refine hr ?_
  cases h
  case result x b dest _ => exact State.readV_writeV_other s b fun e => hn (e ▸ dest)
  case resultAndFlag x b f dest =>
    rw [dest, List.mem_pair, not_or] at hn
    exact State.readV_writeResultAndFlag_other s b f hn.1 hn.2
  case random x nn => exact State.readV_writeV_other s _ (List.ne_of_not_mem_cons hn)
  case load x =>
    refine (State.readV_loadedRegisters s x r).trans (if_neg fun le => hn ?_)
    exact List.mem_filter.mpr ⟨List.mem_finRange r, decide_eq_true le⟩
  case draw x y n fb f => exact State.readV_writeV_other _ _ (List.ne_of_not_mem_cons hn)
  all_goals rfl

theorem index_written (h : Effect s i t) (hi : t.i ≠ s.i) :
    (∃ nnn, i = .ldI nnn) ∨ (∃ x, i = .addI x) ∨ (∃ x, i = .ldF x) := by
  cases h
  case index _ writer => exact writer
  all_goals exact absurd rfl hi

theorem pc_written (h : Effect s i t) (hp : t.pc ≠ s.pc) :
    movesPc i = true ∨ (possibleFault i ≠ .none ∧ FaultTaken (possibleFault i) (encode i) s t) := by
  cases h
  case fault raised listed => subst listed; exact .inr ⟨raised, raiseFault_faultTaken s _ i⟩
  case jump _ moves => exact .inl moves
  case skip _ moves => exact .inl moves
  case keyWait | call | ret => exact .inl rfl
  all_goals exact absurd rfl hp

theorem sp_written (h : Effect s i t) (hs : t.sp ≠ s.sp) : (∃ nnn, i = .call nnn) ∨ i = .ret := by
  cases h
  case call nnn _ => exact .inl ⟨nnn, rfl⟩
  case ret => exact .inr rfl
  all_goals exact absurd rfl hs

theorem stack_written (h : Effect s i t) (hs : t.stack ≠ s.stack) : ∃ nnn, i = .call nnn := by
  cases h
  case call nnn _ => exact ⟨nnn, rfl⟩
  all_goals exact absurd rfl hs

theorem delayTimer_written (h : Effect s i t) (hd : t.dt ≠ s.dt) : ∃ x, i = .ldDtVx x := by
  cases h
  case delayTimer x => exact ⟨x, rfl⟩
  all_goals exact absurd rfl hd

theorem soundTimer_written (h : Effect s i t) (hs : t.st ≠ s.st) : ∃ x, i = .ldStVx x := by
  cases h
  case soundTimer x => exact ⟨x, rfl⟩
  all_goals exact absurd rfl hs

theorem display_written (h : Effect s i t) (hf : t.fb ≠ s.fb) : i = .cls ∨ ∃ x y n, i = .drw x y n := by
  cases h
  case clear => exact .inl rfl
  case draw x y n _ _ => exact .inr ⟨x, y, n, rfl⟩
  all_goals exact absurd rfl hf

theorem keypad_kept (h : Effect s i t) : t.key = s.key := by
  cases h <;> rfl

theorem memory_written (h : Effect s i t) (hm : t.mem ≠ s.mem) : (∃ x, i = .ldB x) ∨ ∃ x, i = .storeRegs x := by
  cases h
  case store _ writer => exact writer
  all_goals exact absurd rfl hm

theorem faultRecord_written (h : Effect s i t) (hf : ¬ KeepsFaultRecord s t) :
    possibleFault i ≠ .none ∧ FaultTaken (possibleFault i) (encode i) s t := by
  cases h
  case fault raised listed => subst listed; exact ⟨raised, raiseFault_faultTaken s _ i⟩
  all_goals exact absurd ⟨rfl, rfl, rfl⟩ hf

end Effect

/-- Settles O38: each part by the lemma that names its writers. -/
theorem statePartsHaveOnlyTheirWriters : Obligations.StatePartsHaveOnlyTheirWriters := by
  intro i s t h
  have e := exec_effect h
  refine ⟨e.register_written, e.index_written, e.pc_written, e.sp_written, e.stack_written, e.delayTimer_written,
    e.soundTimer_written, e.display_written, e.keypad_kept, e.memory_written, fun hf => e.faultRecord_written ?_⟩
  rintro ⟨hc, hp, hw⟩
  rcases hf with hf | hf | hf
  · exact hf hc
  · exact hf hp
  · exact hf hw

/-! ## The flag register (R22) -/

theorem flagByte_zero_or_one (f : Bool) : flagByte f = 0 ∨ flagByte f = 1 := by
  cases f
  · exact .inl rfl
  · exact .inr rfl

theorem writesFlag_eq_false_of_movesPc (h : movesPc i = true) : writesFlag i = false := by
  cases i <;> cases h <;> rfl

/-- A flag instruction that is not stopped by a fault ends in a flag byte. -/
theorem Effect.flag_written (h : Effect s i t) (hw : writesFlag i = true) (hc : t.faultCode = .none) :
    ∃ f, t.readV 15 = flagByte f := by
  cases h
  case resultAndFlag f _ => exact ⟨f, State.readV_writeResultAndFlag_flag s _ _ f⟩
  case draw f => exact ⟨f, State.readV_writeV_self _ _ _⟩
  case fault raised _ => exact absurd hc raised
  case result noFlag => exact absurd hw (by simp [noFlag])
  case jump moves => exact absurd hw (by simp [writesFlag_eq_false_of_movesPc moves])
  case skip moves => exact absurd hw (by simp [writesFlag_eq_false_of_movesPc moves])
  case index writer => rcases writer with ⟨_, rfl⟩ | ⟨_, rfl⟩ | ⟨_, rfl⟩ <;> cases hw
  case store writer => rcases writer with ⟨_, rfl⟩ | ⟨_, rfl⟩ <;> cases hw
  all_goals cases hw

/-- The instructions that write VF as a destination they name. -/
theorem vf_destination_of_mem_writtenRegisters (hr : 15 ∈ writtenRegisters i) (hw : writesFlag i = false) :
    (∃ nn, i = .ldImm 15 nn) ∨ (∃ nn, i = .addImm 15 nn) ∨ (∃ y, i = .ldReg 15 y) ∨ (∃ y, i = .orReg 15 y) ∨
      (∃ y, i = .andReg 15 y) ∨ (∃ y, i = .xorReg 15 y) ∨ (∃ nn, i = .rnd 15 nn) ∨ i = .ldVxDt 15 ∨ i = .ldVxK 15 ∨
      i = .loadRegs 15 := by
  cases i
  case addReg | sub | shr | subn | shl | drw => cases hw
  case loadRegs x =>
    obtain ⟨_, le⟩ := List.mem_filter.mp hr
    have : x = 15 := Fin.last_le_iff.mp (of_decide_eq_true le)
    simp [this]
  all_goals simp_all [writtenRegisters]

/-- Settles O39: a flag instruction ends in a flag byte, and any other writes only the registers it names. -/
theorem flagRegisterHoldsZeroOrOne : Obligations.FlagRegisterHoldsZeroOrOne := by
  intro i s t _ h
  have e := exec_effect h
  refine ⟨fun hw hc => ?_, fun hw hr => vf_destination_of_mem_writtenRegisters (e.register_written 15 hr) hw⟩
  obtain ⟨f, hf⟩ := e.flag_written hw hc
  rw [hf]
  exact flagByte_zero_or_one f

/-! ## The reset values (R36, R37, R270) -/

/-- What the host and the choice of the core give (`rnd`, `draws`, `options`) is no row of R36. -/
theorem hasResetValues_resetCommand (s : State) : HasResetValues s.resetCommand where
  font k := Memory.resetByte_font k
  zeros _ _ h := Memory.resetByte_zero h
  v r := by simp [State.resetCommand, State.reset, State.readV]
  i := rfl
  pc := rfl
  sp := rfl
  stack k := by simp [State.resetCommand, State.reset]
  dt := rfl
  st := rfl
  fb px py := pixel_clear px py
  key k := by simp [State.resetCommand, State.reset]
  faultCode := rfl
  faultPc := rfl
  faultWord := rfl

/-- Settles O34: power-on is the command RESET from the reset state itself. -/
theorem resetGivesEveryResetValue : Obligations.ResetGivesEveryResetValue :=
  ⟨hasResetValues_resetCommand State.reset, fun s => ⟨_, rfl, hasResetValues_resetCommand s⟩⟩

/-! ## The legal states (R24, R26, R33, R107) -/

/-- The command RESET gives a legal state, whatever came before. -/
theorem legal_resetCommand (s : State) : Legal s.resetCommand where
  mem := Memory.wf_nil
  pc := (by decide : (0x0200 : Word).toNat ≤ 0x10FE)
  stack k := by simp [State.resetCommand, State.reset]
  noFault _ := ⟨rfl, rfl⟩
  fault h := absurd rfl h

/-- Settles O35: the command RESET keeps the reset state. -/
theorem resetStateIsLegal : Obligations.ResetStateIsLegal := legal_resetCommand State.reset

/-- A legal state after fetch: no fault is recorded, and PC has just moved past a word of memory (R104). -/
structure Fetched (s : State) : Prop where
  mem : Memory.wf s.mem
  pcLow : 2 ≤ s.pc.toNat
  pcHigh : s.pc.toNat ≤ 0x1000
  stack : ∀ k : Fin 16, (s.stack[k]).toNat ≤ 0x1000
  running : s.faultCode = .none
  record : s.faultPc = 0 ∧ s.faultWord = 0

theorem fetched_afterFetch (hs : Legal s) (hh : ¬ s.Halted) (hf : ¬ s.FetchFails) : Fetched s.afterFetch := by
  rw [fetchFails_iff] at hf
  have hpc : s.afterFetch.pc.toNat = s.pc.toNat + 2 := by
    rw [State.afterFetch_pc, BitVec.toNat_add]
    simp
    omega
  have running : s.faultCode = .none := not_not.mp hh
  exact ⟨hs.mem, by omega, by omega, hs.stack, running, hs.noFault running⟩

/-- A running state with a bounded PC is legal as soon as its memory and its stack are. -/
theorem legal_of_running (mem : Memory.wf s.mem) (pc : s.pc.toNat ≤ 0x10FE)
    (stack : ∀ k : Fin 16, (s.stack[k]).toNat ≤ 0x1000) (running : s.faultCode = .none)
    (record : s.faultPc = 0 ∧ s.faultWord = 0) : Legal s :=
  ⟨mem, pc, stack, fun _ => record, fun h => absurd running h⟩

theorem Fetched.rewind_pc_le (hs : Fetched s) : (s.pc - 2).toNat ≤ 0x10FE := by
  obtain ⟨_, low, high, _⟩ := hs
  rw [BitVec.toNat_sub]
  simp
  omega

theorem Fetched.skip_pc_le (hs : Fetched s) (c : Bool) : (s.skipIf c).pc.toNat ≤ 0x10FE := by
  obtain ⟨_, _, high, _⟩ := hs
  rw [State.skipIf_pc]
  split
  · rw [BitVec.toNat_add]; simp; omega
  · omega

/-- The return address pushed is the PC after fetch, at most 0x1000 (R121). -/
theorem Fetched.push_stack_le (hs : Fetched s) (room : s.sp.val < 16) (k : Fin 16) :
    ((s.push s.pc room).stack[k]).toNat ≤ 0x1000 := by
  have := hs.stack k
  have := hs.pcHigh
  simp only [State.push_stack, Fin.getElem_fin, Vector.getElem_set]
  split <;> assumption

/-- Every effect on a legal state after fetch gives a legal state. -/
theorem Effect.legal (h : Effect s i t) (hs : Fetched s) : Legal t := by
  have ⟨mem, low, high, stack, running, record⟩ := hs
  have pc : s.pc.toNat ≤ 0x10FE := by omega
  cases h
  case fault raised _ => exact ⟨mem, hs.rewind_pc_le, stack, fun h => absurd h raised, fun _ => rfl⟩
  case jump bound _ => exact legal_of_running mem bound stack running record
  case skip c _ => exact legal_of_running mem (hs.skip_pc_le c) stack running record
  case keyWait => exact legal_of_running mem hs.rewind_pc_le stack running record
  case call nnn room => exact legal_of_running mem (extendAddr_le nnn) (hs.push_stack_le room) running record
  case ret entry =>
    have top : (s.top entry).toNat ≤ 0x1000 := stack ⟨s.sp.val - 1, by omega⟩
    exact legal_of_running mem (top.trans (by decide)) stack running record
  case store range _ => exact legal_of_running (Memory.wf_writeBytes _ mem range) pc stack running record
  all_goals exact legal_of_running mem pc stack running record

theorem step_legal (hs : Legal s) (h : step s = .next t) : Legal t := by
  rcases step_cases s with ⟨_, e, _⟩ | ⟨_, _, e, _⟩ | ⟨hh, hf, _, e, _⟩ | ⟨hh, hf, i, _, e, _⟩
  · cases e.symm.trans h; exact hs
  · cases e.symm.trans h; exact ⟨hs.mem, hs.pc, hs.stack, nofun, fun _ => rfl⟩
  · cases e.symm.trans h
    obtain ⟨mem, _, high, stack, running, record⟩ := fetched_afterFetch hs hh hf
    exact legal_of_running mem (by omega) stack running record
  · exact (exec_effect (e.symm.trans h)).legal (fetched_afterFetch hs hh hf)

/-- Settles O36: an instruction runs on a legal state after fetch, and each of its effects gives a legal one. -/
theorem stepKeepsStateLegal : Obligations.StepKeepsStateLegal := fun _ _ => step_legal

/-! ## Sequences of host commands (R102) -/

theorem legal_loadRom (hs : Legal s) {bytes : List Byte} (h : romWellFormed bytes = true) :
    Legal (s.loadRom bytes) := by
  have fits : bytes.length ≤ 3584 := of_decide_eq_true h
  exact ⟨Memory.wf_writeBytes bytes hs.mem (by omega), hs.pc, hs.stack, hs.noFault, hs.fault⟩

theorem legal_withRnd (hs : Legal s) (b : Byte) : Legal (s.withRnd b) :=
  ⟨hs.mem, hs.pc, hs.stack, hs.noFault, hs.fault⟩

/-- The command STEP(rnd) answers, with the step of the state that holds the argument (R101). -/
theorem perform_step {b : Byte} (h : step (s.withRnd b) = .next t) :
    perform (.step b) s = .next (t, .step (stepResponse (s.withRnd b))) := by
  simp only [perform, h]

/-- Every command answers, and keeps a legal state legal. -/
theorem perform_legal (c : Command) (hs : Legal s) : ∃ t a, perform c s = .next (t, a) ∧ Legal t := by
  cases c
  case reset => exact ⟨_, _, rfl, legal_resetCommand s⟩
  case loadRom bytes =>
    by_cases hb : romWellFormed bytes = true
    · exact ⟨_, _, perform_loadRom_of_fits hb, legal_loadRom hs hb⟩
    · exact ⟨_, _, perform_loadRom_of_tooLarge hb, hs⟩
  case step b =>
    obtain ⟨t, ht⟩ := step_answers (s.withRnd b)
    exact ⟨_, _, perform_step ht, step_legal (legal_withRnd hs b) ht⟩
  case readFb | readStatus => exact ⟨_, _, rfl, hs⟩
  all_goals exact ⟨_, _, rfl, hs.mem, hs.pc, hs.stack, hs.noFault, hs.fault⟩

theorem performAll_cons {c : Command} {cs : List Command} {a : Answer} {u : State} {as : List Answer}
    (hc : perform c s = .next (t, a)) (hcs : performAll cs t = .next (u, as)) :
    performAll (c :: cs) s = .next (u, a :: as) := by
  simp only [performAll, hc, hcs]

/-- Settles O37, by induction on the list of commands. -/
theorem commandSequencesKeepStateLegal : Obligations.CommandSequencesKeepStateLegal := by
  intro cs
  induction cs with
  | nil => exact fun s hs => ⟨s, [], rfl, rfl, hs⟩
  | cons c cs ih =>
    intro s hs
    obtain ⟨t, a, hc, ht⟩ := perform_legal c hs
    obtain ⟨u, as, hcs, hlen, hu⟩ := ih t ht
    exact ⟨u, a :: as, performAll_cons hc hcs, congrArg Nat.succ hlen, hu⟩

/-! ## What no instruction reads: ST (R28), and the stack at or above SP (R26) -/

/-- The state with other contents of ST and of the stack. -/
def State.withUnread (s : State) (b : Byte) (k : Vector Word 16) : State := { s with st := b, stack := k }

/-- The stack `k` agrees with that of `s` below SP. -/
def SameLiveStack (s : State) (k : Vector Word 16) : Prop := ∀ j : Fin 16, j.val < s.sp.val → k[j] = s.stack[j]

/-- The contents `b` and `k` in place of those of `s` become `b'` and `k'` in place of those of `t`: the stack below SP
again agrees, and what was not replaced is not replaced after it. -/
structure UnreadFollows (s t : State) (b b' : Byte) (k k' : Vector Word 16) : Prop where
  live : SameLiveStack t k'
  st : b = s.st → b' = t.st
  stack : k = s.stack → k' = t.stack

section Unread

variable {b : Byte} {k : Vector Word 16}

/-- The same contents follow where SP, ST and the stack are kept. -/
theorem unreadFollows_same (hk : SameLiveStack s k) (sp : t.sp = s.sp) (st : t.st = s.st) (stack : t.stack = s.stack) :
    UnreadFollows s t b b k k where
  live := by unfold SameLiveStack; rw [sp, stack]; exact hk
  st h := h.trans st.symm
  stack h := h.trans stack.symm

/-- A call overwrites the entry at SP in both states (R121). -/
theorem unreadFollows_call (hk : SameLiveStack s k) (nnn : Addr) (room : s.sp.val < 16) :
    UnreadFollows s ((s.push s.pc room).jumpTo (extendAddr nnn)) b b k (k.set s.sp.val s.pc) where
  live j hj := by
    by_cases e : s.sp.val = j.val
    · simp [e]
    · have below : j.val < s.sp.val := by
        have : j.val < s.sp.val + 1 := hj
        omega
      simpa [e] using hk j below
  st h := h
  stack h := by subst h; rfl

/-- A return reads the entry below SP alone (R122). -/
theorem top_withUnread (hk : SameLiveStack s k) (entry : 0 < s.sp.val) :
    State.top (s.withUnread b k) entry = s.top entry :=
  hk ⟨s.sp.val - 1, by omega⟩ (Nat.sub_lt entry Nat.one_pos)

theorem unreadFollows_ret (hk : SameLiveStack s k) (entry : 0 < s.sp.val) :
    UnreadFollows s ((s.pop entry).jumpTo (s.top entry)) b b k k where
  live j hj := hk j (Nat.lt_of_lt_of_le hj (Nat.sub_le _ _))
  st h := h
  stack h := h

/-- A range check does not look at ST or the stack (R10). -/
theorem checkedAccess_withUnread (s : State) (i : Instr) (n : Nat) {next nextU : State}
    (h : nextU = next.withUnread b k) :
    (s.withUnread b k).checkedAccess i n nextU = (s.checkedAccess i n next).withUnread b k := by
  subst h
  exact (apply_ite (fun u : State => u.withUnread b k) (OutOfRange s.i.toNat n) (s.raiseFault .memRange i) next).symm

theorem unreadFollows_checkedAccess (hk : SameLiveStack s k) (i : Instr) (n : Nat) {next : State}
    (sp : next.sp = s.sp) (st : next.st = s.st) (stack : next.stack = s.stack) :
    UnreadFollows s (s.checkedAccess i n next) b b k k := by
  rcases checkedAccess_cases s i n next with ⟨_, e⟩ | ⟨_, e⟩ <;> rw [e]
  · exact unreadFollows_same hk rfl rfl rfl
  · exact unreadFollows_same hk sp st stack

/-- The meaning of every instruction is the same whatever ST and the stack at or above SP hold. -/
theorem exec_withUnread (hk : SameLiveStack s k) (h : exec i s = .next t) (b : Byte) :
    ∃ b' k', exec i (s.withUnread b k) = .next (t.withUnread b' k') ∧ UnreadFollows s t b b' k k' := by
  cases i
  case ldStVx x => cases h; exact ⟨s.readV x, k, rfl, hk, fun _ => rfl, id⟩
  case call nnn =>
    by_cases hs : s.sp.val < 16
    · cases (execCall_of_room nnn hs).symm.trans h
      exact ⟨b, _, execCall_of_room (s := s.withUnread b k) nnn hs, unreadFollows_call hk nnn hs⟩
    · cases (execCall_of_full nnn hs).symm.trans h
      exact ⟨b, k, execCall_of_full (s := s.withUnread b k) nnn hs, unreadFollows_same hk rfl rfl rfl⟩
  case ret =>
    by_cases hs : 0 < s.sp.val
    · cases (execRet_of_entry hs).symm.trans h
      refine ⟨b, k, (execRet_of_entry (s := s.withUnread b k) hs).trans ?_, unreadFollows_ret hk hs⟩
      rw [top_withUnread hk hs]
      rfl
    · cases (execRet_of_empty hs).symm.trans h
      exact ⟨b, k, execRet_of_empty (s := s.withUnread b k) hs, unreadFollows_same hk rfl rfl rfl⟩
  case skp x =>
    cases hx : keyState s (s.readV x) with
    | none =>
      cases (execSkp_of_no_key hx).symm.trans h
      exact ⟨b, k, execSkp_of_no_key (s := s.withUnread b k) hx, unreadFollows_same hk rfl rfl rfl⟩
    | some p =>
      cases (execSkp_of_key hx).symm.trans h
      exact ⟨b, k, execSkp_of_key (s := s.withUnread b k) hx, unreadFollows_same hk rfl rfl rfl⟩
  case sknp x =>
    cases hx : keyState s (s.readV x) with
    | none =>
      cases (execSknp_of_no_key hx).symm.trans h
      exact ⟨b, k, execSknp_of_no_key (s := s.withUnread b k) hx, unreadFollows_same hk rfl rfl rfl⟩
    | some p =>
      cases (execSknp_of_key hx).symm.trans h
      exact ⟨b, k, execSknp_of_key (s := s.withUnread b k) hx, unreadFollows_same hk rfl rfl rfl⟩
  case ldVxK x =>
    cases hx : pressedKeys s.key with
    | nil =>
      cases (execLdVxK_of_none hx).symm.trans h
      exact ⟨b, k, execLdVxK_of_none (s := s.withUnread b k) hx, unreadFollows_same hk rfl rfl rfl⟩
    | cons p ps =>
      cases (execLdVxK_of_some hx).symm.trans h
      exact ⟨b, k, execLdVxK_of_some (s := s.withUnread b k) hx, unreadFollows_same hk rfl rfl rfl⟩
  case drw | ldB | storeRegs | loadRegs =>
    cases h
    exact ⟨b, k, congrArg Host.Outcome.next (checkedAccess_withUnread s _ _ rfl),
      unreadFollows_checkedAccess hk _ _ rfl rfl rfl⟩
  all_goals cases h; exact ⟨b, k, rfl, unreadFollows_same hk rfl rfl rfl⟩

/-- So is every step, with its response. -/
theorem step_withUnread (hk : SameLiveStack s k) (b : Byte) :
    ∃ t b' k', step s = .next t ∧ step (s.withUnread b k) = .next (t.withUnread b' k') ∧
      UnreadFollows s t b b' k k' ∧ stepResponse (s.withUnread b k) = stepResponse s := by
  rcases step_cases s with
    ⟨hh, e, r⟩ | ⟨hh, hf, e, r⟩ | ⟨hh, hf, ⟨_, hd⟩, e, r⟩ | ⟨hh, hf, i, hd, e, r⟩ <;> rw [e, r]
  · obtain ⟨hs, hr⟩ := step_of_halted (s := s.withUnread b k) hh
    exact ⟨s, b, k, rfl, hs, unreadFollows_same hk rfl rfl rfl, hr⟩
  · obtain ⟨hs, hr⟩ := step_of_fetchFails (s := s.withUnread b k) hh hf
    exact ⟨_, b, k, rfl, hs, unreadFollows_same hk rfl rfl rfl, hr⟩
  · obtain ⟨hs, hr⟩ := step_of_unknown (s := s.withUnread b k) hh hf hd
    exact ⟨_, b, k, rfl, hs, unreadFollows_same hk rfl rfl rfl, hr⟩
  · obtain ⟨t, ht, _⟩ := exec_keeps_or_raises i s.afterFetch
    obtain ⟨b', k', hu, live, st, stack⟩ := exec_withUnread (s := s.afterFetch) hk ht b
    obtain ⟨hs, hr⟩ := step_of_instr (s := s.withUnread b k) hh hf hd
    refine ⟨t, b', k', ht, hs.trans hu, ⟨live, st, stack⟩, hr.trans ?_⟩
    rw [ht]
    exact (congrArg executedResponse hu :)

end Unread

/-- Settles O41: ST is replaced by itself, so only the stack can differ afterwards. -/
theorem staleStackEntriesAreUnobservable : Obligations.StaleStackEntriesAreUnobservable := by
  rintro s s' ⟨live, same⟩
  obtain ⟨t, b, k, ht, ht', ⟨liveAfter, st, _⟩, response⟩ := step_withUnread live s.st
  rw [← show s' = s.withUnread s.st s'.stack from same] at ht' response
  rw [st rfl] at ht'
  exact ⟨t, _, ht, ht', ⟨liveAfter, rfl⟩, response.symm⟩

/-- Settles O42: the stack is replaced by itself, so only ST can differ afterwards. -/
theorem soundTimerIsUnobservable : Obligations.SoundTimerIsUnobservable := by
  intro s a
  obtain ⟨t, b, k, ht, ht', ⟨_, _, stack⟩, response⟩ := step_withUnread (k := s.stack) (fun _ _ => rfl) a
  rw [stack rfl] at ht'
  exact ⟨t, b, ht, ht', response⟩

end Sys2Proof.Machine
end

section
/-! SUPPORT. Memory and its uses (spec/20_memory.md R50 to R64): the canonical form, the word at an address, what
`Fx55` and LOAD_ROM store, and the placing of a word for the next step. -/

namespace Sys2Proof.Machine

variable {s : State}

/-! ## The canonical form lists exactly what differs from the reset contents (R50, R51) -/

namespace Memory

theorem read_of_mem {m : Memory} (rising : m.Pairwise (fun c d => c.1 < d.1)) {c : Host.Cell} (hc : c ∈ m) :
    read m c.1 = c.2 := by
  induction m with
  | nil => cases hc
  | cons d m ih =>
    obtain ⟨first, rest⟩ := List.pairwise_cons.mp rising
    rcases List.mem_cons.mp hc with rfl | hc
    · exact if_pos rfl
    · rw [read_cons, if_neg (first c hc).ne, ih rest hc]

theorem mem_of_read_ne_resetByte {m : Memory} {a : Nat} (h : read m a ≠ resetByte a) : (a, read m a) ∈ m := by
  induction m with
  | nil => exact absurd rfl h
  | cons d m ih =>
    rw [read_cons] at h ⊢
    split at h
    · next hd => rw [if_pos hd, ← hd]; exact List.mem_cons_self
    · next hd => rw [if_neg hd]; exact List.mem_cons_of_mem d (ih h)

/-- What a canonical memory lists is decided by its reads alone. -/
theorem mem_iff_read {m : Memory} (h : wf m) (c : Host.Cell) : c ∈ m ↔ read m c.1 = c.2 ∧ c.2 ≠ resetByte c.1 := by
  obtain ⟨rising, differs⟩ := h
  constructor
  · intro hc
    obtain ⟨_, hne⟩ := differs c hc
    exact ⟨read_of_mem rising hc, hne⟩
  · rintro ⟨hr, hne⟩
    rw [← hr] at hne
    have listed := mem_of_read_ne_resetByte hne
    rwa [hr] at listed

theorem nodup_of_rising {m : Memory} (rising : m.Pairwise (fun c d => c.1 < d.1)) : m.Nodup :=
  rising.imp fun lt e => lt.ne (congrArg Prod.fst e)

end Memory

/-- Settles O56: the two memories list the same entries, and a list in rising order is decided by its entries. -/
theorem memoriesThatReadAlikeAreEqual : Obligations.MemoriesThatReadAlikeAreEqual := by
  intro m m' hm hm' alike
  have ⟨rising, _⟩ := hm
  have ⟨rising', _⟩ := hm'
  have sameEntries : ∀ c, c ∈ m ↔ c ∈ m' := fun c => by
    rw [Memory.mem_iff_read hm, Memory.mem_iff_read hm', alike]
  have perm : m.Perm m' :=
    (List.perm_ext_iff_of_nodup (Memory.nodup_of_rising rising) (Memory.nodup_of_rising rising')).mpr sameEntries
  exact perm.eq_of_pairwise (fun c d _ _ cd dc => absurd cd dc.asymm) rising rising'

/-! ## Bytes written and words read (R10, R52) -/

theorem Memory.readWord_writeBytes_inside (m : Memory) (a k : Nat) (bs : List Byte) (h : k + 1 < bs.length) :
    Memory.readWord (Memory.writeBytes m a bs) (a + k) = bigEndian bs[k] bs[k + 1] := by
  rw [Memory.readWord, Memory.read_writeBytes_inside bs m a k, Nat.add_assoc,
    Memory.read_writeBytes_inside bs m a (k + 1) h]

theorem Memory.readWord_writeBytes_pair (m : Memory) (a : Nat) (hi lo : Byte) :
    Memory.readWord (Memory.writeBytes m a [hi, lo]) a = bigEndian hi lo :=
  Memory.readWord_writeBytes_inside m a 0 [hi, lo] Nat.one_lt_two

/-- Byte writes change the bytes written and no other part of the state. -/
theorem changesOnly_writeBytes (s : State) (a : Nat) (bs : List Byte) :
    ChangesOnly { memFrom := a, memLength := bs.length } s { s with mem := Memory.writeBytes s.mem a bs } where
  regs _ _ := rfl
  index _ := rfl
  pc _ := rfl
  sp _ := rfl
  stack _ _ := rfl
  dt _ := rfl
  st _ := rfl
  display _ _ _ := rfl
  keys _ _ := rfl
  faultRecord _ := ⟨rfl, rfl, rfl⟩
  randomInput _ := ⟨rfl, rfl⟩
  options := rfl
  mem b outside := Memory.read_writeBytes_outside bs s.mem a b outside

/-- Settles O46: LOAD_ROM is its length test and, for a ROM that passes it, one range of byte writes. -/
theorem loadRomCopiesAllOrNothing : Obligations.LoadRomCopiesAllOrNothing := by
  intro bytes s
  refine ⟨fun fits => ⟨s.loadRom bytes, ?_, ?_, ?_⟩, fun tooLong => ?_⟩
  · exact perform_loadRom_of_fits (decide_eq_true fits)
  · exact Memory.read_writeBytes_inside bytes s.mem 0x200
  · exact changesOnly_writeBytes s 0x200 bytes
  · exact perform_loadRom_of_tooLarge fun fits => absurd (of_decide_eq_true fits) tooLong.not_ge

/-! ## The fetch after a store (R64) -/

/-- A checked access whose range ends below 0x1000 is its effect (R10). -/
theorem checkedAccess_of_inRange {n : Nat} (h : s.i.toNat + n ≤ 0x1000) (i : Instr) (next : State) :
    s.checkedAccess i n next = next :=
  if_neg fun outside : OutOfRange s.i.toNat n => by omega

theorem execStoreRegs_of_inRange {x : Reg} (h : s.i.toNat + x.val ≤ 0xFFF) :
    execStoreRegs x s = .next { s with mem := Memory.writeBytes s.mem s.i.toNat (registersUpTo x s) } :=
  congrArg Host.Outcome.next (checkedAccess_of_inRange (by omega) _ _)

theorem fetchWord_jumpTo {a : Nat} (h : a < 65536) (s : State) :
    (s.jumpTo (BitVec.ofNat 16 a)).fetchWord = Memory.readWord s.mem a := by
  rw [State.fetchWord, State.jumpTo_mem, State.jumpTo_pc, BitVec.toNat_ofNat, Nat.mod_eq_of_lt h]

/-- Settles O45: the two bytes fetched are two neighbours of the register list that was stored. -/
theorem fetchSeesStoredRegisters : Obligations.FetchSeesStoredRegisters := by
  intro x k s t h _ inRange ht
  have stored : k.val + 1 < (registersUpTo x s).length := by
    rw [length_registersUpTo]; omega
  cases (execStoreRegs_of_inRange inRange).symm.trans ht
  rw [fetchWord_jumpTo (by omega), Memory.readWord_writeBytes_inside _ _ _ _ stored, getElem_registersUpTo,
    getElem_registersUpTo]

/-! ## The word placed for the next step (R52, R104; log entry 12) -/

theorem withFetchWord_faultCode (s : State) (nbits w : Nat) : (s.withFetchWord nbits w).faultCode = .none := by
  unfold State.withFetchWord
  split
  · split <;> rfl
  · next running => split <;> exact not_not.mp running

theorem withFetchWord_pc (s : State) (nbits w : Nat) :
    (s.withFetchWord nbits w).pc = if s.FetchFails then 0x0200 else s.pc := by
  unfold State.withFetchWord
  split <;> split <;> rfl

theorem not_fetchFails_withFetchWord (s : State) (nbits w : Nat) : ¬ (s.withFetchWord nbits w).FetchFails := by
  rw [fetchFails_iff, withFetchWord_pc]
  split
  · decide
  · next hf => rwa [fetchFails_iff] at hf

theorem fetchWord_withFetchWord (s : State) (nbits w : Nat) :
    (s.withFetchWord nbits w).fetchWord = BitVec.ofNat 16 (w % 2 ^ nbits) :=
  (Memory.readWord_writeBytes_pair _ _ _ _).trans (bigEndian_bytes _)

theorem decodeTableWord_of_decode {nbits w : Nat} {i : Instr}
    (h : decode (BitVec.ofNat 16 (w % 2 ^ nbits)) = .ok i) : decodeTableWord nbits w = some i := by
  simp only [decodeTableWord, decodeBytes, bigEndian_bytes, h]

/-- Settles O57: the placed state can fetch, and the word it fetches is the word placed. -/
theorem placedWordIsExecutedNext : Obligations.PlacedWordIsExecutedNext := by
  intro s w i hw hd
  rw [← Nat.mod_eq_of_lt (show w < 2 ^ 16 from hw)] at hd
  refine ⟨decodeTableWord_of_decode hd, ?_⟩
  rw [← fetchWord_withFetchWord s 16 w] at hd
  obtain ⟨executed, _⟩ :=
    step_of_instr (not_not.mpr (withFetchWord_faultCode s 16 w)) (not_fetchFails_withFetchWord s 16 w) hd
  exact executed

end Sys2Proof.Machine
end

section
/-! SUPPORT. The decoder, the encoder and the opcode table (spec/30_encoding.md R80 to R92): what each row of the table
says of the fields of the words that match it, what each family of the decoder answers, and the word that its fields
make up. -/

namespace Sys2Proof

variable {w : Word} {i : Instr}

/-! ## A word is made up of its fields (R81, R82) -/

theorem formA_of_fields {op : BitVec 4} (hop : (opField w).toNat = op.toNat) : formA op (nnnField w) = w := by
  apply BitVec.eq_of_toNat_eq
  rw [formA_toNat, ← hop, opField_toNat, nnnField_toNat]
  omega

theorem formXB_of_fields {op : BitVec 4} {nn : Byte} (hop : (opField w).toNat = op.toNat) (hnn : nnField w = nn) :
    formXB op (xField w) nn = w := by
  apply BitVec.eq_of_toNat_eq
  rw [formXB_toNat, ← hop, ← hnn, opField_toNat, xField_val, nnField_toNat]
  omega

theorem formXYN_of_fields {op : BitVec 4} {n : RowCount} (hop : (opField w).toNat = op.toNat)
    (hn : (nField w).val = n.val) : formXYN op (xField w) (yField w) n = w := by
  apply BitVec.eq_of_toNat_eq
  rw [formXYN_toNat, ← hop, ← hn, opField_toNat, xField_val, yField_val, nField_val]
  omega

/-! ## What a row of the table says of the words that match it (R84)

A field that the row's mask covers is the same in the word and in the row's bits. -/

theorem OpcodeRow.and_mask_of_matches (r : OpcodeRow) (h : r.matches w = true) : w &&& r.mask = r.bits :=
  of_decide_eq_true h

section Masked

variable {mask bits : Word} (h : w &&& mask = bits)
include h

theorem opField_of_masked (covered : opField mask = BitVec.allOnes 4) : opField w = opField bits := by
  have masked : opField (w &&& mask) = opField w &&& opField mask := BitVec.extractLsb'_and
  rw [← h, masked, covered, BitVec.and_allOnes]

theorem nnField_of_masked (covered : nnField mask = BitVec.allOnes 8) : nnField w = nnField bits := by
  have masked : nnField (w &&& mask) = nnField w &&& nnField mask := BitVec.extractLsb'_and
  rw [← h, masked, covered, BitVec.and_allOnes]

theorem nField_of_masked (covered : mask.extractLsb' 0 4 = BitVec.allOnes 4) : nField w = nField bits := by
  rw [← h, nField, nField, BitVec.extractLsb'_and, covered, BitVec.and_allOnes]

end Masked

/-- Two rows whose bits differ where both masks look share no word. -/
theorem OpcodeRow.not_matches_both {r q : OpcodeRow} (differ : r.bits &&& q.mask ≠ q.bits &&& r.mask) (w : Word) :
    ¬ (r.matches w = true ∧ q.matches w = true) := by
  rintro ⟨hr, hq⟩
  apply differ
  calc r.bits &&& q.mask
      = w &&& r.mask &&& q.mask := by rw [r.and_mask_of_matches hr]
    _ = w &&& q.mask &&& r.mask := by rw [BitVec.and_assoc, BitVec.and_comm r.mask, BitVec.and_assoc]
    _ = q.bits &&& r.mask := by rw [q.and_mask_of_matches hq]

/-- Settles O53: of any two rows the bits differ where both masks look. -/
theorem opcodeRowsAreDisjoint : Obligations.OpcodeRowsAreDisjoint := by
  have differ : opcodeTable.Pairwise (fun r q => r.bits &&& q.mask ≠ q.bits &&& r.mask) := by decide
  exact ⟨rfl, differ.imp OpcodeRow.not_matches_both⟩

/-! ## The decoder answers what a matching row answers (R84, R92) -/

/-- The decoder follows the row: every word that matches it decodes to what the row builds. -/
def OpcodeRow.Followed (r : OpcodeRow) : Prop := ∀ w, r.matches w = true → decode w = .ok (r.build w)

section Followed

variable {bits : Word} {build : Word → Instr}

/-- A row with the mask of a whole word (R86). -/
theorem followed_of_word (h : decode bits = .ok (build bits)) : OpcodeRow.Followed ⟨bits, 0xFFFF, build⟩ := by
  intro w hw
  have whole : w &&& BitVec.allOnes 16 = bits := OpcodeRow.and_mask_of_matches _ hw
  rw [BitVec.and_allOnes] at whole
  rw [whole, h]

/-- A row with the mask of a fully decoded family (R90). -/
theorem followed_of_family (h : ∀ w, opField w = opField bits → decode w = .ok (build w)) :
    OpcodeRow.Followed ⟨bits, 0xF000, build⟩ := by
  intro w hw
  have masked : w &&& 0xF000 = bits := OpcodeRow.and_mask_of_matches _ hw
  exact h w (opField_of_masked masked (by decide))

/-- A row with the mask of a family that the low nibble divides (R87, R88). -/
theorem followed_of_nibble (h : ∀ w, opField w = opField bits → nField w = nField bits → decode w = .ok (build w)) :
    OpcodeRow.Followed ⟨bits, 0xF00F, build⟩ := by
  intro w hw
  have masked : w &&& 0xF00F = bits := OpcodeRow.and_mask_of_matches _ hw
  exact h w (opField_of_masked masked (by decide)) (nField_of_masked masked (by decide))

/-- A row with the mask of a family that the low byte divides (R89). -/
theorem followed_of_byte (h : ∀ w, opField w = opField bits → nnField w = nnField bits → decode w = .ok (build w)) :
    OpcodeRow.Followed ⟨bits, 0xF0FF, build⟩ := by
  intro w hw
  have masked : w &&& 0xF0FF = bits := OpcodeRow.and_mask_of_matches _ hw
  exact h w (opField_of_masked masked (by decide)) (nnField_of_masked masked (by decide))

theorem followed_of_family8 (hop : opField bits = 0x8)
    (h : ∀ w, nField w = nField bits → decodeFamily8 w = .ok (build w)) : OpcodeRow.Followed ⟨bits, 0xF00F, build⟩ :=
  followed_of_nibble fun w op n => by rw [decode, op, hop]; exact h w n

theorem followed_of_familyE (hop : opField bits = 0xE)
    (h : ∀ w, nnField w = nnField bits → decodeFamilyE w = .ok (build w)) : OpcodeRow.Followed ⟨bits, 0xF0FF, build⟩ :=
  followed_of_byte fun w op nn => by rw [decode, op, hop]; exact h w nn

theorem followed_of_familyF (hop : opField bits = 0xF)
    (h : ∀ w, nnField w = nnField bits → decodeFamilyF w = .ok (build w)) : OpcodeRow.Followed ⟨bits, 0xF0FF, build⟩ :=
  followed_of_byte fun w op nn => by rw [decode, op, hop]; exact h w nn

end Followed

theorem followed_rowsControl : ∀ r ∈ rowsControl, r.Followed := by
  simp only [rowsControl, List.forall_mem_cons]
  refine ⟨?cls, ?ret, ?jp, ?call, ?seImm, ?sneImm, ?seReg, List.forall_mem_nil _⟩
  case cls | ret => exact followed_of_word rfl
  case seReg =>
    refine followed_of_nibble fun w op n => ?_
    rw [decode, op]
    show decodeFamily5 w = _
    rw [decodeFamily5, n]; rfl
  all_goals exact followed_of_family fun w op => by rw [decode, op]; rfl

theorem followed_rowsAlu : ∀ r ∈ rowsAlu, r.Followed := by
  simp only [rowsAlu, List.forall_mem_cons]
  refine ⟨?ldImm, ?addImm, ?ldReg, ?orReg, ?andReg, ?xorReg, ?addReg, ?sub, ?shr, ?subn, ?shl, List.forall_mem_nil _⟩
  case ldImm | addImm => exact followed_of_family fun w op => by rw [decode, op]; rfl
  all_goals exact followed_of_family8 rfl fun w n => by rw [decodeFamily8, n]; rfl

theorem followed_rowsMiddle : ∀ r ∈ rowsMiddle, r.Followed := by
  simp only [rowsMiddle, List.forall_mem_cons]
  refine ⟨?sneReg, ?ldI, ?jpV0, ?rnd, ?drw, List.forall_mem_nil _⟩
  case sneReg =>
    refine followed_of_nibble fun w op n => ?_
    rw [decode, op]
    show decodeFamily9 w = _
    rw [decodeFamily9, n]; rfl
  all_goals exact followed_of_family fun w op => by rw [decode, op]; rfl

theorem followed_rowsEF : ∀ r ∈ rowsEF, r.Followed := by
  simp only [rowsEF, List.forall_mem_cons]
  refine ⟨?skp, ?sknp, ?ldVxDt, ?ldVxK, ?ldDtVx, ?ldStVx, ?addI, ?ldF, ?ldB, ?storeRegs, ?loadRegs,
    List.forall_mem_nil _⟩
  case skp | sknp => exact followed_of_familyE rfl fun w nn => by rw [decodeFamilyE, nn]; rfl
  all_goals exact followed_of_familyF rfl fun w nn => by rw [decodeFamilyF, nn]; rfl

/-- Every row of the table is followed. -/
theorem decode_of_matches {r : OpcodeRow} (hr : r ∈ opcodeTable) (h : r.matches w = true) :
    decode w = .ok (r.build w) := by
  simp only [opcodeTable, List.mem_append] at hr
  rcases hr with ((hr | hr) | hr) | hr
  · exact followed_rowsControl r hr w h
  · exact followed_rowsAlu r hr w h
  · exact followed_rowsMiddle r hr w h
  · exact followed_rowsEF r hr w h

/-- The lemmas of `Laws.MatchesItsRow`, one per constructor, for any instruction. -/
theorem matchesItsRow : ∀ i : Instr, Laws.MatchesItsRow.Statement i
  | .cls => Laws.MatchesItsRow.cls
  | .ret => Laws.MatchesItsRow.ret
  | .jp _ => Laws.MatchesItsRow.jp _
  | .call _ => Laws.MatchesItsRow.call _
  | .seImm _ _ => Laws.MatchesItsRow.seImm _ _
  | .sneImm _ _ => Laws.MatchesItsRow.sneImm _ _
  | .seReg _ _ => Laws.MatchesItsRow.seReg _ _
  | .ldImm _ _ => Laws.MatchesItsRow.ldImm _ _
  | .addImm _ _ => Laws.MatchesItsRow.addImm _ _
  | .ldReg _ _ => Laws.MatchesItsRow.ldReg _ _
  | .orReg _ _ => Laws.MatchesItsRow.orReg _ _
  | .andReg _ _ => Laws.MatchesItsRow.andReg _ _
  | .xorReg _ _ => Laws.MatchesItsRow.xorReg _ _
  | .addReg _ _ => Laws.MatchesItsRow.addReg _ _
  | .sub _ _ => Laws.MatchesItsRow.sub _ _
  | .shr _ _ => Laws.MatchesItsRow.shr _ _
  | .subn _ _ => Laws.MatchesItsRow.subn _ _
  | .shl _ _ => Laws.MatchesItsRow.shl _ _
  | .sneReg _ _ => Laws.MatchesItsRow.sneReg _ _
  | .ldI _ => Laws.MatchesItsRow.ldI _
  | .jpV0 _ => Laws.MatchesItsRow.jpV0 _
  | .rnd _ _ => Laws.MatchesItsRow.rnd _ _
  | .drw _ _ _ => Laws.MatchesItsRow.drw _ _ _
  | .skp _ => Laws.MatchesItsRow.skp _
  | .sknp _ => Laws.MatchesItsRow.sknp _
  | .ldVxDt _ => Laws.MatchesItsRow.ldVxDt _
  | .ldVxK _ => Laws.MatchesItsRow.ldVxK _
  | .ldDtVx _ => Laws.MatchesItsRow.ldDtVx _
  | .ldStVx _ => Laws.MatchesItsRow.ldStVx _
  | .addI _ => Laws.MatchesItsRow.addI _
  | .ldF _ => Laws.MatchesItsRow.ldF _
  | .ldB _ => Laws.MatchesItsRow.ldB _
  | .storeRegs _ => Laws.MatchesItsRow.storeRegs _
  | .loadRegs _ => Laws.MatchesItsRow.loadRegs _

/-- Every instruction's word has a row of the table, which builds the instruction from it. -/
theorem exists_row_of_encode (i : Instr) :
    ∃ r ∈ opcodeTable, r.matches (encode i) = true ∧ r.build (encode i) = i := by
  obtain ⟨r, hr, matched, built⟩ := matchesItsRow i
  exact ⟨r, List.mem_of_getElem? hr, matched, built⟩

/-- Settles O50: the instruction's word matches its row, and the decoder follows the row. -/
theorem decodeOfEncodeIsTheInstruction : Obligations.DecodeOfEncodeIsTheInstruction := by
  intro i
  obtain ⟨r, hr, matched, built⟩ := exists_row_of_encode i
  rw [decode_of_matches hr matched, built]

/-! ## A decoded word is the word of its instruction (R84, R85) -/

theorem encode_of_decodeFamily0 (hop : (opField w).toNat = 0x0) (h : decodeFamily0 w = .ok i) : encode i = w := by
  unfold decodeFamily0 at h
  split_ifs at h with nnn nnn <;> cases h
  · exact (congrArg (formA 0x0) nnn.symm).trans (formA_of_fields hop)
  · exact (congrArg (formA 0x0) nnn.symm).trans (formA_of_fields hop)

theorem encode_of_decodeFamily5 (hop : (opField w).toNat = 0x5) (h : decodeFamily5 w = .ok i) : encode i = w := by
  unfold decodeFamily5 at h
  split_ifs at h with n
  cases h
  exact formXYN_of_fields hop n

theorem encode_of_decodeFamily9 (hop : (opField w).toNat = 0x9) (h : decodeFamily9 w = .ok i) : encode i = w := by
  unfold decodeFamily9 at h
  split_ifs at h with n
  cases h
  exact formXYN_of_fields hop n

theorem encode_of_decodeFamily8 (hop : (opField w).toNat = 0x8) (h : decodeFamily8 w = .ok i) : encode i = w := by
  unfold decodeFamily8 at h
  split at h <;> cases h
  all_goals next n => exact formXYN_of_fields hop n

theorem encode_of_decodeFamilyE (hop : (opField w).toNat = 0xE) (h : decodeFamilyE w = .ok i) : encode i = w := by
  unfold decodeFamilyE at h
  split_ifs at h <;> cases h
  all_goals next nn => exact formXB_of_fields hop nn

theorem encode_of_decodeFamilyF (hop : (opField w).toNat = 0xF) (h : decodeFamilyF w = .ok i) : encode i = w := by
  unfold decodeFamilyF at h
  split_ifs at h <;> cases h
  all_goals next nn => exact formXB_of_fields hop nn

/-- Settles O51, by the families of the decoder: the operands and the sub-opcode are all of the word. -/
theorem encodeOfDecodeIsTheWord : Obligations.EncodeOfDecodeIsTheWord := by
  intro w i h
  have := (opField w).isLt
  unfold decode at h
  split at h
  case h_1 op => exact encode_of_decodeFamily0 op h
  case h_6 op => exact encode_of_decodeFamily5 op h
  case h_9 op => exact encode_of_decodeFamily8 op h
  case h_10 op => exact encode_of_decodeFamily9 op h
  case h_15 op => exact encode_of_decodeFamilyE op h
  case h_16 => exact encode_of_decodeFamilyF (by simp only [imp_false] at *; omega) h
  case h_2 op | h_3 op | h_11 op | h_12 op => cases h; exact formA_of_fields op
  case h_4 op | h_5 op | h_7 op | h_8 op | h_13 op => cases h; exact formXB_of_fields op rfl
  case h_14 op => cases h; exact formXYN_of_fields op rfl

/-- Settles O52: a row that is found is followed; where none is found, an instruction would have been of a row. -/
theorem decoderFollowsOpcodeTable : Obligations.DecoderFollowsOpcodeTable := by
  intro w
  unfold decodeByTable
  split
  · next r found =>
    have matched := List.find?_some found
    exact decode_of_matches (List.mem_of_find?_eq_some found) matched
  · next none =>
    cases hd : decode w with
    | error e => rw [Machine.decode_error hd]
    | ok i =>
      obtain ⟨r, hr, matched, _⟩ := exists_row_of_encode i
      rw [encodeOfDecodeIsTheWord w i hd] at matched
      exact absurd matched (List.find?_eq_none.mp none r hr)

/-! ## The unknown words (R86 to R89) -/

/-- A chain of tests rejects exactly where each test fails. -/
theorem ite_ok_eq_error_iff {p : Prop} [Decidable p] {rest : Except DecodeReject Instr} {e : DecodeReject} :
    (if p then .ok i else rest) = .error e ↔ ¬ p ∧ rest = .error e := by
  by_cases hp : p <;> simp [hp]

theorem decodeFamily0_unknown_iff (hop : (opField w).toNat = 0x0) :
    decodeFamily0 w = .error (.unknownOpcode w) ↔ w.toNat ≠ 0x00E0 ∧ w.toNat ≠ 0x00EE := by
  have whole : (nnnField w).toNat = w.toNat := by
    rw [opField_toNat] at hop
    rw [nnnField_toNat]; omega
  simp [decodeFamily0, ite_ok_eq_error_iff, ← BitVec.toNat_inj, whole]

theorem decodeFamily5_unknown_iff : decodeFamily5 w = .error (.unknownOpcode w) ↔ (nField w).val ≠ 0 := by
  simp only [decodeFamily5, ite_ok_eq_error_iff, and_true, ne_eq]

theorem decodeFamily9_unknown_iff : decodeFamily9 w = .error (.unknownOpcode w) ↔ (nField w).val ≠ 0 := by
  simp only [decodeFamily9, ite_ok_eq_error_iff, and_true, ne_eq]

theorem decodeFamily8_unknown_iff :
    decodeFamily8 w = .error (.unknownOpcode w) ↔ (nField w).val ∈ [0x8, 0x9, 0xA, 0xB, 0xC, 0xD, 0xF] := by
  have := (nField w).isLt
  unfold decodeFamily8
  split
  case h_10 => simp only [List.mem_cons, List.not_mem_nil, or_false, true_iff, imp_false] at *; omega
  all_goals next n => simp [n]

theorem decodeFamilyE_unknown_iff :
    decodeFamilyE w = .error (.unknownOpcode w) ↔ (nnField w).toNat ∉ [0x9E, 0xA1] := by
  simp [decodeFamilyE, ite_ok_eq_error_iff, ← BitVec.toNat_inj]

theorem decodeFamilyF_unknown_iff : decodeFamilyF w = .error (.unknownOpcode w) ↔
    (nnField w).toNat ∉ [0x07, 0x0A, 0x15, 0x18, 0x1E, 0x29, 0x33, 0x55, 0x65] := by
  simp [decodeFamilyF, ite_ok_eq_error_iff, ← BitVec.toNat_inj]

/-- Settles O54, by the families of the decoder: a fully decoded family has no unknown word (R90). -/
theorem unknownWordsAreExactlyTheListedSets : Obligations.UnknownWordsAreExactlyTheListedSets := by
  intro w
  rw [← opField_toNat, ← nField_val, ← nnField_toNat]
  have := (opField w).isLt
  unfold decode
  split
  case h_1 op => simp [op, decodeFamily0_unknown_iff op]
  case h_6 op => simp [op, decodeFamily5_unknown_iff]
  case h_9 op => simp [op, decodeFamily8_unknown_iff]
  case h_10 op => simp [op, decodeFamily9_unknown_iff]
  case h_15 op => simp [op, decodeFamilyE_unknown_iff]
  case h_16 =>
    have op : (opField w).toNat = 0xF := by simp only [imp_false] at *; omega
    simp [op, decodeFamilyF_unknown_iff]
  all_goals next op => simp [op]

/-- Settles O55: the decoder evaluates on each word. -/
theorem wordsOfEachFamilyDecode : Obligations.WordsOfEachFamilyDecode := by
  unfold Obligations.WordsOfEachFamilyDecode
  decide

end Sys2Proof
end

section
/-! SUPPORT. The step cycle (spec/40_cycle.md R103 to R111): what STEP answers in each case, the faults, the runs that
have ended (spec/70_reset_and_hazards.md R277), and the commands that only read. -/

namespace Sys2Proof.Machine

variable {s : State} {i : Instr}

/-! ## A STEP by its case (R103 to R109) -/

/-- Settles O26. -/
theorem haltedStepChangesNothing : Obligations.HaltedStepChangesNothing := fun _ => step_of_halted

/-- Settles O27: the fetch check fails, and its fault writes the record alone. -/
theorem fetchBeyondMemoryFaults : Obligations.FetchBeyondMemoryFaults := by
  intro s running beyond
  exact step_of_fetchFails (not_not.mpr running) ((fetchFails_iff s).mpr beyond)

/-- Settles O28. -/
theorem stepRunsDecodedInstruction : Obligations.StepRunsDecodedInstruction := by
  intro s i hx
  obtain ⟨hh, hf, hd⟩ := (executes_iff s i).mp hx
  exact (step_of_instr hh hf hd).1

/-- Settles O29: the word named is the word fetched. -/
theorem unknownWordOnlyAdvancesPc : Obligations.UnknownWordOnlyAdvancesPc := by
  rintro s w running inMemory rfl unknown
  exact step_of_unknown (not_not.mpr running) (mt (fetchFails_iff s).mp inMemory.not_gt) unknown

/-! ## The outcome of an executed instruction (R107, R108) -/

/-- A fault raised after fetch is the fault taken at the state before the step: PC goes back to the faulting word. -/
theorem raiseFault_afterFetch (s : State) (c : FaultCode) (i : Instr) :
    s.afterFetch.raiseFault c i = s.takeFault c (encode i) := by
  have back : s.afterFetch.rewind = s := congrArg (fun a : Word => s.jumpTo a) (BitVec.add_sub_cancel s.pc 2)
  rw [State.raiseFault, back]

theorem executedResponse_of_noFault (h : s.faultCode = .none) : executedResponse (.next s) = .ok := if_pos h

theorem executedResponse_of_fault (h : s.faultCode ≠ .none) : executedResponse (.next s) = .fault s.faultCode :=
  if_neg h

/-- A step that executes an instruction either ends without a fault and answers OK, or is the state it began with but
for the record of a fault on the word fetched, and answers that fault. -/
theorem step_of_instr_ok_or_fault (hh : ¬ s.Halted) (hf : ¬ s.FetchFails) (hd : decode s.fetchWord = .ok i) :
    ∃ t, step s = .next t ∧ exec i s.afterFetch = .next t ∧
      ((t.faultCode = .none ∧ stepResponse s = .ok) ∨
        ∃ c, c ≠ .none ∧ t = s.takeFault c s.fetchWord ∧ stepResponse s = .fault c) := by
  obtain ⟨executed, response⟩ := step_of_instr hh hf hd
  obtain ⟨t, ht, ⟨kept, _⟩ | ⟨c, hc, rfl⟩⟩ := exec_keeps_or_raises i s.afterFetch
  all_goals rw [ht] at executed response
  · have noFault : t.faultCode = .none := kept.trans (not_not.mp hh)
    exact ⟨t, executed, ht, .inl ⟨noFault, response.trans (executedResponse_of_noFault noFault)⟩⟩
  · have taken : s.afterFetch.raiseFault c i = s.takeFault c s.fetchWord := by
      rw [raiseFault_afterFetch, encodeOfDecodeIsTheWord s.fetchWord i hd]
    exact ⟨_, executed, ht, .inr ⟨c, hc, taken, response.trans (executedResponse_of_fault hc)⟩⟩

/-- Settles O30: of the four cases of a step, the failed fetch check and the faulting instruction end with a fault. -/
theorem faultsArePrecise : Obligations.FaultsArePrecise := by
  intro s t running ht faulted
  rcases step_cases s with ⟨hh, _⟩ | ⟨_, hf, e, r⟩ | ⟨_, _, _, e, _⟩ | ⟨hh, hf, i, hd, _⟩
  · exact absurd running hh
  · cases e.symm.trans ht
    rw [if_pos ((fetchFails_iff s).mp hf)]
    exact ⟨rfl, r⟩
  · cases e.symm.trans ht
    exact absurd running faulted
  · obtain ⟨u, hu, _, ⟨noFault, _⟩ | ⟨c, _, rfl, r⟩⟩ := step_of_instr_ok_or_fault hh hf hd
    all_goals cases hu.symm.trans ht
    · exact absurd noFault faulted
    · rw [if_neg (mt (fetchFails_iff s).mpr hf)]
      exact ⟨rfl, r⟩

/-- Settles O32: a row of the table of responses for each case of a step, and for each outcome of an instruction. -/
theorem stepAnswersOneOfFourResponses : Obligations.StepAnswersOneOfFourResponses := by
  intro s
  rcases step_cases s with ⟨hh, e, r⟩ | ⟨hh, _, e, r⟩ | ⟨hh, _, ⟨_, hd⟩, e, r⟩ | ⟨hh, hf, i, hd, _⟩
  · rw [r]
    exact ⟨s, e, hh, rfl⟩
  · rw [r]
    exact ⟨_, e, not_not.mp hh, nofun, rfl⟩
  · rw [r]
    exact ⟨_, e, not_not.mp hh, rfl, rfl, decode_error hd ▸ hd⟩
  · obtain ⟨t, e, ht, ⟨noFault, r⟩ | ⟨c, hc, rfl, r⟩⟩ := step_of_instr_ok_or_fault hh hf hd
    · rw [r]
      exact ⟨t, e, i, (executes_iff s i).mpr ⟨hh, hf, hd⟩, ht, noFault⟩
    · rw [r]
      exact ⟨_, e, not_not.mp hh, hc, rfl⟩

/-! ## Runs that have ended (R103, R120, R277) -/

/-- A state that a step leaves as it is stays so under any number of steps. -/
theorem run_of_step_eq_self {M : Host.Core} {s : M.State} (h : M.step s = .next s) (k : Nat) :
    M.run k s = .next s := by
  induction k with
  | zero => rfl
  | succ k ih => simp only [Host.Core.run, h, ih]

/-- The word at PC of a parked state is the jump to PC. -/
theorem State.Parked.decode_fetchWord (h : s.Parked) : decode s.fetchWord = .ok (.jp (s.pc.setWidth 12)) := by
  obtain ⟨_, inMemory, jump⟩ := h
  have word : s.fetchWord = encode (.jp (s.pc.setWidth 12)) := by
    apply BitVec.eq_of_toNat_eq
    rw [jump, encode, formA_toNat, BitVec.toNat_setWidth, Nat.mod_eq_of_lt (by omega)]
    rfl
  rw [word]
  exact decodeOfEncodeIsTheInstruction _

theorem extendAddr_setWidth {a : Word} (h : a.toNat < 4096) : extendAddr (a.setWidth 12) = a := by
  apply BitVec.eq_of_toNat_eq
  rw [extendAddr_toNat, BitVec.toNat_setWidth, Nat.mod_eq_of_lt h]

/-- A parked state executes its jump and is as before. -/
theorem State.Parked.step_eq_self (h : s.Parked) : step s = .next s ∧ stepResponse s = .ok := by
  have ⟨running, inMemory, _⟩ := h
  have target : extendAddr (s.pc.setWidth 12) = s.pc := extendAddr_setWidth (by omega)
  have jumps : exec (.jp (s.pc.setWidth 12)) s.afterFetch = .next s :=
    congrArg (fun a : Word => Host.Outcome.next (s.afterFetch.jumpTo a)) target
  obtain ⟨executed, response⟩ :=
    step_of_instr (not_not.mpr running) (mt (fetchFails_iff s).mp inMemory.not_gt) h.decode_fetchWord
  rw [jumps] at executed response
  exact ⟨executed, response.trans (executedResponse_of_noFault running)⟩

/-- Settles O44: either kind of ended run is one that a step leaves as it is; TICK and the key commands write nothing
that `Parked` reads. -/
theorem endedRunsStayEnded : Obligations.EndedRunsStayEnded := by
  refine fun s => ⟨fun ended => ?_, fun parked => ⟨parked.step_eq_self.2, parked, parked, fun _ _ => parked⟩⟩
  apply run_of_step_eq_self (M := Sys2Proof.core)
  rcases ended with halted | parked
  · exact (step_of_halted halted).1
  · exact parked.step_eq_self.1

/-! ## The commands that only read (R111, R195, R214) -/

/-- READ_FB has the pixel of column `px` and row `py` at its linear index (R195). -/
theorem getElem?_readFb (s : State) (px : Fin 64) (py : Fin 32) :
    s.readFb[py.val * 64 + px.val]? = some (Framebuffer.pixel s.fb px py) := by
  have hx : Fin.ofNat 64 (py.val * 64 + px.val) = px := Fin.ext (by simp)
  have hy : Fin.ofNat 32 ((py.val * 64 + px.val) / 64) = py := Fin.ext (by simp; omega)
  rw [State.readFb, List.getElem?_map, List.getElem?_range (by omega), Option.map_some, hx, hy]

/-- Settles O49. -/
theorem readCommandsAnswerTheState : Obligations.ReadCommandsAnswerTheState := by
  intro s
  have length : s.readFb.length = 2048 := by rw [State.readFb, List.length_map, List.length_range]
  exact ⟨⟨s.readFb, rfl, length, getElem?_readFb s⟩, rfl, rfl⟩

end Sys2Proof.Machine
end

section
/-! SUPPORT. Control flow (spec/41_control_flow.md R120 to R129): what jumps, calls, returns and skips change, and the
return address that waits on the stack while a called subroutine runs. -/

namespace Sys2Proof.Machine

variable {s t : State} {i : Instr}

/-! ## Words written out are words in a format (R81, R84) -/

theorem patternA_eq_formA (op : BitVec 4) (nnn : Addr) : patternA (op.toNat * 0x1000) nnn = formA op nnn := by
  apply BitVec.eq_of_toNat_eq
  rw [patternA, BitVec.toNat_ofNat, formA_toNat]
  omega

theorem patternXB_eq_formXB (op : BitVec 4) (x : Reg) (nn : Byte) :
    patternXB (op.toNat * 0x1000) x nn = formXB op x nn := by
  apply BitVec.eq_of_toNat_eq
  rw [patternXB, BitVec.toNat_ofNat, formXB_toNat]
  omega

theorem patternXY_eq_formXYN (op : BitVec 4) (x y : Reg) (n : RowCount) :
    patternXY (op.toNat * 0x1000 + n.val) x y = formXYN op x y n := by
  apply BitVec.eq_of_toNat_eq
  rw [patternXY, BitVec.toNat_ofNat, formXYN_toNat]
  omega

/-- A word written out decodes to the instruction whose word it is. -/
theorem decode_of_eq_encode {w : Word} (h : w = encode i) : decode w = .ok i :=
  h ▸ decodeOfEncodeIsTheInstruction i

/-- Families 5 and 9 have no row with a low nibble other than 0 (R87). -/
theorem decode_patternXY_unknown {op : BitVec 4} (family : op = 0x5 ∨ op = 0x9) (x y : Reg) {n : Nat} (pos : 0 < n)
    (lt : n < 16) : decode (patternXY (op.toNat * 0x1000 + n) x y) =
      .error (.unknownOpcode (patternXY (op.toNat * 0x1000 + n) x y)) := by
  have word : patternXY (op.toNat * 0x1000 + n) x y = formXYN op x y ⟨n, lt⟩ := patternXY_eq_formXYN op x y ⟨n, lt⟩
  rw [word, unknownWordsAreExactlyTheListedSets, ← opField_toNat, ← nField_val, opField_formXYN, nField_formXYN]
  rcases family with rfl | rfl
  · exact .inr (.inl ⟨rfl, pos.ne'⟩)
  · exact .inr (.inr (.inr (.inl ⟨rfl, pos.ne'⟩)))

/-! ## What jumps, calls, returns and skips change (R120 to R128) -/

/-- Writing PC, and SP and the stack as far as the footprint says so, changes nothing else. -/
theorem changesOnly_control {pc : Word} {sp : Fin 17} {stack : Vector Word 16} {movesSp : Bool} {written : List Nat}
    (spKept : movesSp = false → sp = s.sp)
    (stackKept : ∀ k : Fin 16, k.val ∉ written → stack[k] = s.stack[k]) :
    ChangesOnly { pc := true, sp := movesSp, stack := written } s { s with pc := pc, sp := sp, stack := stack } where
  regs _ _ := rfl
  index _ := rfl
  pc := nofun
  sp := spKept
  stack := stackKept
  dt _ := rfl
  st _ := rfl
  display _ _ _ := rfl
  keys _ _ := rfl
  faultRecord _ := ⟨rfl, rfl, rfl⟩
  randomInput _ := ⟨rfl, rfl⟩
  options := rfl
  mem _ _ := rfl

theorem changesOnly_jumpTo (s : State) (target : Word) : ChangesOnly { pc := true } s (s.jumpTo target) :=
  changesOnly_control (fun _ => rfl) (fun _ _ => rfl)

theorem changesOnly_skipIf (s : State) (c : Bool) : ChangesOnly { pc := true } s (s.skipIf c) :=
  changesOnly_jumpTo s _

/-- An entry that a push does not write keeps its value (R121). -/
theorem getElem_stack_push_other (room : s.sp.val < 16) (r : Word) {k : Fin 16} (h : k.val ≠ s.sp.val) :
    (s.push r room).stack[k] = s.stack[k] :=
  Vector.getElem_set_ne room k.isLt h.symm

theorem getElem_stack_push_self (room : s.sp.val < 16) (r : Word) : (s.push r room).stack[s.sp.val] = r :=
  Vector.getElem_set_self room

theorem changesOnly_push_jumpTo (room : s.sp.val < 16) (r target : Word) :
    ChangesOnly { pc := true, sp := true, stack := [s.sp.val] } s ((s.push r room).jumpTo target) :=
  changesOnly_control nofun fun _ h => getElem_stack_push_other room r (List.ne_of_not_mem_cons h)

theorem changesOnly_pop_jumpTo (entry : 0 < s.sp.val) (target : Word) :
    ChangesOnly { pc := true, sp := true } s ((s.pop entry).jumpTo target) :=
  changesOnly_control nofun (fun _ _ => rfl)

section Skip

variable {p : Prop} [Decidable p]

/-- A skip on a condition moves PC over one word where the condition holds, and changes nothing otherwise (R128). -/
theorem skips_when (h : exec i s = .next (s.skipIf (decide p))) :
    ∃ t, exec i s = .next t ∧ ChangesOnly { pc := true } s t ∧ (p → t.pc = s.pc + 2) ∧ (¬ p → t.pc = s.pc) := by
  refine ⟨_, h, changesOnly_skipIf s _, fun holds => ?_, fun fails => ?_⟩
  · exact if_pos (decide_eq_true holds)
  · exact if_neg fun e => fails (of_decide_eq_true e)

/-- The same for a skip on the opposite of the condition. -/
theorem skips_unless (h : exec i s = .next (s.skipIf (decide (¬ p)))) :
    ∃ t, exec i s = .next t ∧ ChangesOnly { pc := true } s t ∧ (¬ p → t.pc = s.pc + 2) ∧ (p → t.pc = s.pc) := by
  obtain ⟨t, ht, frame, skips, stays⟩ := skips_when h
  exact ⟨t, ht, frame, skips, fun holds => stays (not_not_intro holds)⟩

end Skip

/-- The sum of `Bnnn` does not wrap (R127). -/
theorem jumpWithOffset_toNat (nnn : Addr) (b : Byte) :
    (extendAddr nnn + extendByte b).toNat = nnn.toNat + b.toNat := by
  have := nnn.isLt
  have := b.isLt
  rw [BitVec.toNat_add, extendAddr_toNat, extendByte_toNat]
  omega

/-! ## A return address waits on the stack (R129) -/

/-- No instruction writes an entry below SP: the one that writes the stack, CALL, writes at SP. -/
theorem Effect.live_entry_kept (h : Effect s i t) {k : Fin 16} (live : k.val < s.sp.val) : t.stack[k] = s.stack[k] := by
  cases h
  case call room => exact getElem_stack_push_other room s.pc live.ne
  all_goals rfl

theorem step_keeps_live_entry (h : step s = .next t) {k : Fin 16} (live : k.val < s.sp.val) :
    t.stack[k] = s.stack[k] := by
  rcases step_cases s with ⟨_, e, _⟩ | ⟨_, _, e, _⟩ | ⟨_, _, _, e, _⟩ | ⟨_, _, i, _, e, _⟩
  case inr.inr.inr => exact (exec_effect (e.symm.trans h)).live_entry_kept (s := s.afterFetch) live
  all_goals cases e.symm.trans h; rfl

/-- An entry that stays below SP all through a run holds at its end what it held at its start. -/
theorem StepRun.keeps_live_entry {run : Nat → State} {n : Nat} (steps : StepRun run n) {k : Fin 16}
    (live : ∀ j, j < n → k.val < (run j).sp.val) : (run n).stack[k] = (run 0).stack[k] := by
  induction n with
  | zero => rfl
  | succ n ih =>
    have before : (run n).stack[k] = (run 0).stack[k] :=
      ih (fun j hj => steps j (Nat.lt_succ_of_lt hj)) (fun j hj => live j (Nat.lt_succ_of_lt hj))
    exact (step_keeps_live_entry (steps n n.lt_succ_self) (live n n.lt_succ_self)).trans before

/-- The top of the stack is the entry just below SP (R25). -/
theorem top_eq_getElem {k : Fin 16} (h : s.sp.val = k.val + 1) (entry : 0 < s.sp.val) : s.top entry = s.stack[k] := by
  simp [State.top, h]

/-- Settles O40: the entry that the call writes stays below SP in the whole run, and is the top of the stack at its
end. -/
theorem returnResumesAfterMatchingCall : Obligations.ReturnResumesAfterMatchingCall := by
  intro nnn s run n room called steps above level
  have pushed : run 0 = (s.push s.pc room).jumpTo (extendAddr nnn) :=
    Host.Outcome.next.inj (called.symm.trans (execCall_of_room nnn room))
  have entry : 0 < (run n).sp.val := by omega
  have top : (run n).top entry = s.pc :=
    calc (run n).top entry
        = (run n).stack[(⟨s.sp.val, room⟩ : Fin 16)] := top_eq_getElem level entry
      _ = (run 0).stack[(⟨s.sp.val, room⟩ : Fin 16)] := steps.keeps_live_entry fun j hj => above j hj.le
      _ = s.pc := by rw [pushed]; exact getElem_stack_push_self room s.pc
  exact ⟨_, execRet_of_entry entry, top, Fin.ext (Nat.sub_eq_of_eq_add level)⟩

/-! ## The instructions (R120 to R127) -/

/-- Settles O1. -/
theorem jumpSetsPc : Obligations.JumpSetsPc := fun nnn s =>
  ⟨decode_of_eq_encode (patternA_eq_formA 0x1 nnn), _, rfl, extendAddr_toNat nnn, changesOnly_jumpTo s _⟩

/-- Settles O2: the two clauses are the two ways of CALL. -/
theorem callPushesReturnAddress : Obligations.CallPushesReturnAddress := by
  intro nnn s
  have word : patternA 0x2000 nnn = encode (.call nnn) := patternA_eq_formA 0x2 nnn
  refine ⟨decode_of_eq_encode word, fun room => ?_, fun full => ?_⟩
  · exact ⟨_, execCall_of_room nnn room, getElem_stack_push_self room s.pc, rfl, extendAddr_toNat nnn,
      changesOnly_push_jumpTo room _ _⟩
  · rw [word]
    exact ⟨_, execCall_of_full nnn (by omega), raiseFault_faultTaken s _ _⟩

/-- Settles O3: the two clauses are the two ways of RET. -/
theorem returnPopsTopOfStack : Obligations.ReturnPopsTopOfStack := by
  refine fun s => ⟨decode_of_eq_encode rfl, fun entry => ?_, fun empty => ?_⟩
  · exact ⟨_, execRet_of_entry entry, Nat.sub_add_cancel entry, rfl, changesOnly_pop_jumpTo entry _⟩
  · exact ⟨_, execRet_of_empty (by omega), raiseFault_faultTaken s _ .ret⟩

/-- Settles O4. -/
theorem immediateSkipsMovePcByTwo : Obligations.ImmediateSkipsMovePcByTwo := fun x nn _ =>
  ⟨decode_of_eq_encode (patternXB_eq_formXB 0x3 x nn), decode_of_eq_encode (patternXB_eq_formXB 0x4 x nn),
    skips_when rfl, skips_unless rfl⟩

/-- Settles O5. -/
theorem registerSkipsMovePcByTwo : Obligations.RegisterSkipsMovePcByTwo := by
  refine fun x y s => ⟨decode_of_eq_encode (patternXY_eq_formXYN 0x5 x y 0),
    decode_of_eq_encode (patternXY_eq_formXYN 0x9 x y 0), fun n pos lt => ⟨?_, ?_⟩, skips_when rfl, skips_unless rfl⟩
  · exact decode_patternXY_unknown (.inl rfl) x y pos lt
  · exact decode_patternXY_unknown (.inr rfl) x y pos lt

/-- Settles O6. -/
theorem jumpWithOffsetAddsV0 : Obligations.JumpWithOffsetAddsV0 := fun nnn s =>
  ⟨decode_of_eq_encode (patternA_eq_formA 0xB nnn), _, rfl, jumpWithOffset_toNat nnn (s.readV 0),
    jumpWithOffset_le nnn (s.readV 0), changesOnly_jumpTo s _⟩

end Sys2Proof.Machine
end

section
/-! SUPPORT. Loads, arithmetic, logic, shifts and random (spec/42_alu.md R140 to R156): a write of registers leaves the
rest of the state, a result comes alone or with the flag after it, and results and flags as numbers. -/

namespace Sys2Proof.Machine

variable {s : State} {i : Instr}

/-! ## What a write of registers leaves unchanged (R142) -/

/-- Writing registers, and the RND input as far as the footprint says so, changes nothing else. -/
theorem changesOnly_registers {v : Vector Byte 16} {rnd : Byte} {draws : Nat} {written : List Reg} {usesDraw : Bool}
    (registersKept : ∀ r : Reg, r ∉ written → State.readV { s with v := v } r = s.readV r)
    (drawKept : usesDraw = false → rnd = s.rnd ∧ draws = s.draws) :
    ChangesOnly { regs := written, randomInput := usesDraw } s { s with v := v, rnd := rnd, draws := draws } where
  regs := registersKept
  index _ := rfl
  pc _ := rfl
  sp _ := rfl
  stack _ _ := rfl
  dt _ := rfl
  st _ := rfl
  display _ _ _ := rfl
  keys _ _ := rfl
  faultRecord _ := ⟨rfl, rfl, rfl⟩
  randomInput := drawKept
  options := rfl
  mem _ _ := rfl

theorem changesOnly_writeV (s : State) (x : Reg) (b : Byte) : ChangesOnly { regs := [x] } s (s.writeV x b) :=
  changesOnly_registers (fun _ other => s.readV_writeV_other b (List.ne_of_not_mem_cons other)) fun _ => ⟨rfl, rfl⟩

theorem changesOnly_writeV_nextDraw (s : State) (x : Reg) (b : Byte) :
    ChangesOnly { regs := [x], randomInput := true } s (s.writeV x b).nextDraw :=
  changesOnly_registers (fun _ other => s.readV_writeV_other b (List.ne_of_not_mem_cons other)) nofun

theorem changesOnly_writeResultAndFlag (s : State) (x : Reg) (r : Byte) (f : Bool) :
    ChangesOnly { regs := [x, 15] } s (s.writeResultAndFlag x r f) := by
  refine changesOnly_registers (fun q other => ?_) fun _ => ⟨rfl, rfl⟩
  obtain ⟨notResult, notFlag⟩ := List.ne_and_not_mem_of_not_mem_cons other
  exact s.readV_writeResultAndFlag_other r f notResult (List.ne_of_not_mem_cons notFlag)

/-! ## A flag as a byte (R22) -/

theorem flagByte_toNat (f : Bool) : (flagByte f).toNat = f.toNat := by cases f <;> rfl

theorem flagByte_decide (p : Prop) [Decidable p] : flagByte (decide p) = if p then 1 else 0 := by
  by_cases h : p <;> simp [h]

/-! ## A result alone, and a result with its flag (R142) -/

/-- An instruction that writes a result and no flag leaves it in its destination, VF too, and changes nothing else. -/
theorem sets_result {x : Reg} {b : Byte} (h : exec i s = .next (s.writeV x b)) :
    ∃ t, exec i s = .next t ∧ t.readV x = b ∧ ChangesOnly { regs := [x] } s t :=
  ⟨_, h, s.readV_writeV_self x b, changesOnly_writeV s x b⟩

/-- The same, bit by bit. -/
theorem sets_result_bits {x : Reg} {b : Byte} {bit : Nat → Bool} (h : exec i s = .next (s.writeV x b))
    (bits : ∀ k, b.getLsbD k = bit k) :
    ∃ t, exec i s = .next t ∧ ChangesOnly { regs := [x] } s t ∧ ∀ k < 8, (t.readV x).getLsbD k = bit k := by
  obtain ⟨t, ht, rfl, frame⟩ := sets_result h
  exact ⟨t, ht, frame, fun k _ => bits k⟩

/-- An instruction that writes a result and then a flag leaves the flag in VF, and the result in any other destination,
and changes nothing else. -/
theorem sets_result_and_flag {x : Reg} {r c : Byte} {f : Bool} {n : Nat}
    (h : exec i s = .next (s.writeResultAndFlag x r f)) (result : r.toNat = n) (flag : flagByte f = c) :
    ∃ t, exec i s = .next t ∧ ChangesOnly { regs := [x, 15] } s t ∧ (x ≠ 15 → (t.readV x).toNat = n) ∧
      t.readV 15 = c := by
  refine ⟨_, h, changesOnly_writeResultAndFlag s x r f, fun notFlag => ?_, ?_⟩
  · rw [s.readV_writeResultAndFlag_result r f notFlag, result]
  · rw [s.readV_writeResultAndFlag_flag, flag]

/-- The same, with the flag as the bit that it is (R22). -/
theorem sets_result_and_bit {x : Reg} {r : Byte} {f : Bool} {n m : Nat}
    (h : exec i s = .next (s.writeResultAndFlag x r f)) (result : r.toNat = n) (bit : f.toNat = m) :
    ∃ t, exec i s = .next t ∧ ChangesOnly { regs := [x, 15] } s t ∧ (x ≠ 15 → (t.readV x).toNat = n) ∧
      (t.readV 15).toNat = m := by
  obtain ⟨t, ht, frame, number, flag⟩ := sets_result_and_flag h result rfl
  exact ⟨t, ht, frame, number, by rw [flag, flagByte_toNat, bit]⟩

/-! ## Results and shifted-out bits as numbers (R140) -/

/-- The difference modulo 256 (R151, R154). -/
theorem sub_toNat (minuend subtrahend : Byte) :
    (minuend - subtrahend).toNat = (minuend.toNat + 256 - subtrahend.toNat) % 256 := by
  have := subtrahend.isLt
  rw [BitVec.toNat_sub]
  omega

/-- The bit shifted out at the right is the remainder by 2 (R153). -/
theorem shiftedOutLow_toNat (b : Byte) : (shiftedOutLow b).toNat = b.toNat % 2 := by
  rw [shiftedOutLow, BitVec.getLsbD, Nat.toNat_testBit, pow_zero, Nat.div_one]

/-- The bit shifted out at the left is the quotient by 128 (R155). -/
theorem shiftedOutHigh_toNat (b : Byte) : (shiftedOutHigh b).toNat = b.toNat / 128 := by
  have := b.isLt
  rw [shiftedOutHigh, BitVec.getLsbD, Nat.toNat_testBit]
  omega

/-- The byte shifted right by one is its half (R153). -/
theorem shiftRight_one_toNat (b : Byte) : (b >>> 1).toNat = b.toNat / 2 := by
  rw [BitVec.toNat_ushiftRight, Nat.shiftRight_eq_div_pow, pow_one]

/-- The byte shifted left by one is its double modulo 256 (R155). -/
theorem shiftLeft_one_toNat (b : Byte) : (b <<< 1).toNat = b.toNat * 2 % 256 := by
  rw [BitVec.toNat_shiftLeft, Nat.shiftLeft_eq, pow_one]

/-! ## The instructions (R144 to R156) -/

/-- Settles O7. -/
theorem loadAndCopyWriteOnlyVx : Obligations.LoadAndCopyWriteOnlyVx := fun x y nn _ =>
  ⟨decode_of_eq_encode (patternXB_eq_formXB 0x6 x nn), decode_of_eq_encode (patternXY_eq_formXYN 0x8 x y 0),
    sets_result rfl, sets_result rfl⟩

/-- Settles O8: the sum of bytes is the sum modulo 256. -/
theorem addImmediateWrapsWithoutFlag : Obligations.AddImmediateWrapsWithoutFlag := by
  intro x nn s
  obtain ⟨t, ht, sum, frame⟩ := sets_result (s := s) (i := .addImm x nn) rfl
  refine ⟨decode_of_eq_encode (patternXB_eq_formXB 0x7 x nn), t, ht, ?_, frame⟩
  rw [sum, BitVec.toNat_add]

/-- Settles O9. -/
theorem logicIsBitwiseWithoutFlag : Obligations.LogicIsBitwiseWithoutFlag := fun x y _ =>
  ⟨decode_of_eq_encode (patternXY_eq_formXYN 0x8 x y 1), decode_of_eq_encode (patternXY_eq_formXYN 0x8 x y 2),
    decode_of_eq_encode (patternXY_eq_formXYN 0x8 x y 3), sets_result_bits rfl fun _ => BitVec.getLsbD_or,
    sets_result_bits rfl fun _ => BitVec.getLsbD_and, sets_result_bits rfl fun _ => BitVec.getLsbD_xor⟩

/-- Settles O10. -/
theorem addRegistersSetsCarry : Obligations.AddRegistersSetsCarry := fun x y _ =>
  ⟨decode_of_eq_encode (patternXY_eq_formXYN 0x8 x y 4),
    sets_result_and_flag rfl (BitVec.toNat_add _ _) (flagByte_decide _)⟩

/-- Settles O11. -/
theorem subtractionsSetNotBorrow : Obligations.SubtractionsSetNotBorrow := fun x y _ =>
  ⟨decode_of_eq_encode (patternXY_eq_formXYN 0x8 x y 5), decode_of_eq_encode (patternXY_eq_formXYN 0x8 x y 7),
    sets_result_and_flag rfl (sub_toNat _ _) (flagByte_decide _),
    sets_result_and_flag rfl (sub_toNat _ _) (flagByte_decide _)⟩

/-- Settles O13: SHIFT_SRC only chooses the source, and the shifts do the same with either. -/
theorem shiftSourceFollowsOptionPoint : Obligations.ShiftSourceFollowsOptionPoint := by
  intro x y s src h
  have source : shiftOperand x y s = src := by
    obtain ⟨vy, rfl⟩ | ⟨vx, rfl⟩ := h
    · exact shiftOperand_of_vy x y vy
    · exact shiftOperand_of_vx x y vx
  subst source
  exact ⟨sets_result_and_bit rfl (shiftRight_one_toNat _) (shiftedOutLow_toNat _),
    sets_result_and_bit rfl (shiftLeft_one_toNat _) (shiftedOutHigh_toNat _)⟩

/-- Settles O12: the case of O13 whose source is Vy. -/
theorem shiftsTakeVyAndSetShiftedOutBit : Obligations.ShiftsTakeVyAndSetShiftedOutBit := fun x y s vy =>
  ⟨decode_of_eq_encode (patternXY_eq_formXYN 0x8 x y 6), decode_of_eq_encode (patternXY_eq_formXYN 0x8 x y 14),
    shiftSourceFollowsOptionPoint x y s (s.readV y) (.inl ⟨vy, rfl⟩)⟩

/-- Settles O14. -/
theorem randomIsMaskedDraw : Obligations.RandomIsMaskedDraw := fun x nn s =>
  ⟨decode_of_eq_encode (patternXB_eq_formXB 0xC x nn), _, rfl, s.readV_writeV_self x _,
    changesOnly_writeV_nextDraw s x _⟩

end Sys2Proof.Machine
end

section
/-! SUPPORT. The index register and memory transfer (spec/43_index_memory.md R170 to R175): a write of I leaves the rest
of the state, a checked transfer is its effect or MEM_RANGE, and what the transfers store and load. -/

namespace Sys2Proof.Machine

variable {s : State} {i : Instr}

/-- A word written out with a low byte that selects the instruction is a word in format XB (R81, R89). -/
theorem patternX_eq_formXB (op : BitVec 4) (x : Reg) (nn : Byte) :
    patternX (op.toNat * 0x1000 + nn.toNat) x = formXB op x nn := by
  rw [← patternXB_eq_formXB, patternX, patternXB, Nat.add_right_comm]

/-! ## A write of I (R170 to R172) -/

theorem changesOnly_setI (s : State) (a : Word) : ChangesOnly { index := true } s (s.setI a) where
  regs _ _ := rfl
  index := nofun
  pc _ := rfl
  sp _ := rfl
  stack _ _ := rfl
  dt _ := rfl
  st _ := rfl
  display _ _ _ := rfl
  keys _ _ := rfl
  faultRecord _ := ⟨rfl, rfl, rfl⟩
  randomInput _ := ⟨rfl, rfl⟩
  options := rfl
  mem _ _ := rfl

/-- An instruction that writes I leaves the number in it, and changes nothing else. -/
theorem sets_index {a : Word} {n : Nat} (h : exec i s = .next (s.setI a)) (number : a.toNat = n) :
    ∃ t, exec i s = .next t ∧ t.i.toNat = n ∧ ChangesOnly { index := true } s t :=
  ⟨_, h, number, changesOnly_setI s a⟩

/-- The index sum is modulo 2^16 (R171). -/
theorem add_extendByte_toNat (a : Word) (b : Byte) : (a + extendByte b).toNat = (a.toNat + b.toNat) % 65536 := by
  rw [BitVec.toNat_add, extendByte_toNat]

/-- Settles O15. -/
theorem indexIsSetAndAddedUnmasked : Obligations.IndexIsSetAndAddedUnmasked := fun nnn x _ =>
  ⟨decode_of_eq_encode (patternA_eq_formA 0xA nnn), decode_of_eq_encode (patternX_eq_formXB 0xF x 0x1E),
    sets_index rfl (extendAddr_toNat nnn), sets_index rfl (add_extendByte_toNat _ _)⟩

/-- Settles O16: the pointer is FONT_BASE and the factor times Vx, and FONT_SCALE says which factor. -/
theorem fontPointerFollowsFontScale : Obligations.FontPointerFollowsFontScale := by
  intro x s
  obtain ⟨t, ht, pointer, frame⟩ := sets_index (s := s) (i := .ldF x) rfl (fontAddress_toNat _ _)
  refine ⟨decode_of_eq_encode (patternX_eq_formXB 0xF x 0x29), t, ht, frame, fun one => ?_, fun five => ?_⟩
  · have factor : (fontFactor s.options.fontScale).toNat = 1 := by rw [one]; rfl
    rw [pointer, factor, Nat.one_mul]
  · have factor : (fontFactor s.options.fontScale).toNat = 5 := by rw [five]; rfl
    rw [pointer, factor]

/-! ## A checked transfer (R10, R59) -/

/-- A checked access whose range reaches beyond 0xFFF is MEM_RANGE with none of the effect (R10, R243). -/
theorem checkedAccess_of_beyond {n : Nat} (h : s.i.toNat + n > 0xFFF) (i : Instr) (next : State) :
    s.checkedAccess i (n + 1) next = s.raiseFault .memRange i :=
  if_pos (show OutOfRange s.i.toNat (n + 1) from ⟨Nat.succ_pos n, h⟩)

section Transfer

variable {n : Nat} {next : State} (h : exec i s = .next (s.checkedAccess i (n + 1) next))
include h

/-- A transfer whose last address is in memory is its effect. -/
theorem transfers_in_range (inRange : s.i.toNat + n ≤ 0xFFF) : exec i s = .next next := by
  rw [h, checkedAccess_of_inRange (by omega)]

/-- A transfer whose last address is not in memory takes MEM_RANGE with its own word. -/
theorem transfer_faults_beyond {w : Word} (word : w = encode i) (beyond : s.i.toNat + n > 0xFFF) :
    ∃ t, exec i s = .next t ∧ FaultTaken .memRange w s t := by
  rw [h, checkedAccess_of_beyond beyond, word]
  exact ⟨_, rfl, raiseFault_faultTaken s .memRange i⟩

end Transfer

/-! ## What the transfers store and load (R173 to R175) -/

/-- The decimal digits as numbers: each is below 10, so the byte holds it. -/
theorem bcdDigits_toNat (b : Byte) : (bcdDigits b)[0].toNat = b.toNat / 100 ∧
    (bcdDigits b)[1].toNat = b.toNat / 10 % 10 ∧ (bcdDigits b)[2].toNat = b.toNat % 10 := by
  have := b.isLt
  refine ⟨?_, ?_, ?_⟩ <;> exact Nat.mod_eq_of_lt (by omega)

/-- Settles O17: in range it writes the list of the three digits at I. -/
theorem bcdStoresThreeDigits : Obligations.BcdStoresThreeDigits := by
  intro x s
  have word : patternX 0xF033 x = encode (.ldB x) := patternX_eq_formXB 0xF x 0x33
  refine ⟨decode_of_eq_encode word, fun inRange => ?_, transfer_faults_beyond rfl word⟩
  have stored := Memory.read_writeBytes_inside (bcdDigits (s.readV x)) s.mem s.i.toNat
  obtain ⟨hundreds, tens, ones⟩ := bcdDigits_toNat (s.readV x)
  refine ⟨_, transfers_in_range rfl inRange, changesOnly_writeBytes s _ (bcdDigits (s.readV x)), ?_, ?_, ?_⟩
  · exact (congrArg BitVec.toNat (stored 0 (by simp))).trans hundreds
  · exact (congrArg BitVec.toNat (stored 1 (by simp))).trans tens
  · exact (congrArg BitVec.toNat (stored 2 (by simp))).trans ones

theorem changesOnly_storedRegisters (x : Reg) (s : State) :
    ChangesOnly { memFrom := s.i.toNat, memLength := x.val + 1 } s
      { s with mem := Memory.writeBytes s.mem s.i.toNat (registersUpTo x s) } :=
  length_registersUpTo x s ▸ changesOnly_writeBytes s s.i.toNat (registersUpTo x s)

theorem read_storedRegisters (s : State) {x r : Reg} (h : r ≤ x) :
    Memory.read (Memory.writeBytes s.mem s.i.toNat (registersUpTo x s)) (s.i.toNat + r.val) = s.readV r := by
  have listed : r.val < (registersUpTo x s).length := by
    rw [length_registersUpTo]; exact Nat.lt_succ_of_le h
  rw [Memory.read_writeBytes_inside _ _ _ _ listed, getElem_registersUpTo]

/-- Settles O18: in range it writes the list of the registers V0 to Vx at I. -/
theorem storeRegistersWritesInclusiveRange : Obligations.StoreRegistersWritesInclusiveRange := by
  intro x s
  have word : patternX 0xF055 x = encode (.storeRegs x) := patternX_eq_formXB 0xF x 0x55
  refine ⟨decode_of_eq_encode word, fun inRange => ?_, transfer_faults_beyond rfl word⟩
  exact ⟨_, execStoreRegs_of_inRange inRange, changesOnly_storedRegisters x s, fun _ => read_storedRegisters s⟩

theorem changesOnly_loadedRegisters (x : Reg) (s : State) :
    ChangesOnly { regs := (List.finRange 16).filter (fun r => decide (r ≤ x)) } s
      { s with v := loadedRegisters x s } := by
  refine changesOnly_registers (fun r other => ?_) fun _ => ⟨rfl, rfl⟩
  have above : ¬ r.val ≤ x.val := fun le =>
    other (List.mem_filter.mpr ⟨List.mem_finRange r, decide_eq_true le⟩)
  rw [State.readV_loadedRegisters, if_neg above]

/-- Settles O19: in range it replaces the registers V0 to Vx, each by the byte at its place from I on. -/
theorem loadRegistersReadsInclusiveRange : Obligations.LoadRegistersReadsInclusiveRange := by
  intro x s
  have word : patternX 0xF065 x = encode (.loadRegs x) := patternX_eq_formXB 0xF x 0x65
  refine ⟨decode_of_eq_encode word, fun inRange => ?_, transfer_faults_beyond rfl word⟩
  refine ⟨_, transfers_in_range rfl inRange, fun r le => ?_, changesOnly_loadedRegisters x s⟩
  exact (State.readV_loadedRegisters s x r).trans (if_pos le)

end Sys2Proof.Machine
end

section
/-! SUPPORT. The display instructions (spec/44_display.md R190 to R194): a draw hits a list of pixels, no pixel twice,
so what the loop does one after the other is said of each pixel alone. -/

namespace Sys2Proof.Machine

variable {s t : State} {x y : Reg} {n : RowCount}

/-! ## What a new picture leaves unchanged (R190, R191) -/

/-- Writing the display, and registers as far as the footprint says so, changes nothing else. -/
theorem changesOnly_display {v : Vector Byte 16} {written : List Reg} (fb : Framebuffer)
    (registersKept : ∀ r : Reg, r ∉ written → State.readV { s with v := v } r = s.readV r) :
    ChangesOnly { regs := written, display := true } s { s with v := v, fb := fb } where
  regs := registersKept
  index _ := rfl
  pc _ := rfl
  sp _ := rfl
  stack _ _ := rfl
  dt _ := rfl
  st _ := rfl
  display := nofun
  keys _ _ := rfl
  faultRecord _ := ⟨rfl, rfl, rfl⟩
  randomInput _ := ⟨rfl, rfl⟩
  options := rfl
  mem _ _ := rfl

/-- Settles O20. -/
theorem clearDisplayZeroesAllPixels : Obligations.ClearDisplayZeroesAllPixels := fun _ =>
  ⟨decode_of_eq_encode rfl, _, rfl, pixel_clear, changesOnly_display Framebuffer.clear fun _ _ => rfl⟩

/-! ## A draw is a list of hits (R191) -/

/-- The pixels hit one after the other. -/
def Blit.hits (b : Blit) (pixels : List (Fin 64 × Fin 32)) : Blit := pixels.foldl (fun b p => b.hit p.1 p.2) b

/-- The pixels that the set bits of one sprite byte hit, in the order of the inner loop. -/
def rowPixels (x0 : Fin 64) (py : Fin 32) (byte : Byte) : List (Fin 64 × Fin 32) :=
  ((List.range 8).filter (spriteBit byte)).map fun k => (column x0 k, py)

/-- The pixels that the sprite bytes from row `r` on hit, in the order of the outer loop. -/
def spritePixels (x0 : Fin 64) (y0 : Fin 32) : Nat → List Byte → List (Fin 64 × Fin 32)
  | _, [] => []
  | r, byte :: bytes => rowPixels x0 (row y0 r) byte ++ spritePixels x0 y0 (r + 1) bytes

theorem drawByte_eq_hits (b : Blit) (x0 : Fin 64) (py : Fin 32) (byte : Byte) :
    b.drawByte x0 py byte = b.hits (rowPixels x0 py byte) := by
  rw [Blit.hits, rowPixels, List.foldl_map, List.foldl_filter]
  rfl

theorem drawRows_eq_hits (x0 : Fin 64) (y0 : Fin 32) (bytes : List Byte) (b : Blit) (r : Nat) :
    Blit.drawRows x0 y0 b r bytes = b.hits (spritePixels x0 y0 r bytes) := by
  induction bytes generalizing b r with
  | nil => rfl
  | cons byte bytes ih =>
    rw [Blit.drawRows, ih, drawByte_eq_hits, spritePixels]
    exact List.foldl_append.symm

/-! ## Which pixels are hit, and that none is hit twice (R191, R192, R194) -/

theorem mem_rowPixels {x0 px : Fin 64} {q py : Fin 32} {byte : Byte} :
    (px, py) ∈ rowPixels x0 q byte ↔ py = q ∧ ∃ k < 8, spriteBit byte k = true ∧ px = column x0 k := by
  simp only [rowPixels, List.mem_map, List.mem_filter, List.mem_range, Prod.mk.injEq]
  constructor
  · rintro ⟨k, ⟨inByte, set⟩, rfl, rfl⟩
    exact ⟨rfl, k, inByte, set, rfl⟩
  · rintro ⟨rfl, k, inByte, set, rfl⟩
    exact ⟨k, ⟨inByte, set⟩, rfl, rfl⟩

theorem mem_spritePixels {x0 px : Fin 64} {y0 py : Fin 32} {bytes : List Byte} {r : Nat} :
    (px, py) ∈ spritePixels x0 y0 r bytes ↔
      ∃ (j : Nat) (h : j < bytes.length), (px, py) ∈ rowPixels x0 (row y0 (r + j)) bytes[j] := by
  induction bytes generalizing r with
  | nil => simp [spritePixels]
  | cons byte bytes ih =>
    rw [spritePixels, List.mem_append, ih]
    constructor
    · rintro (here | ⟨j, h, later⟩)
      · exact ⟨0, Nat.succ_pos _, here⟩
      · exact ⟨j + 1, Nat.succ_lt_succ h, by rwa [Nat.add_right_comm] at later⟩
    · rintro ⟨_ | j, h, hit⟩
      · exact .inl hit
      · exact .inr ⟨j, Nat.lt_of_succ_lt_succ h, by rwa [Nat.add_right_comm]⟩

/-- The eight columns of a sprite byte are distinct. -/
theorem nodup_rowPixels (x0 : Fin 64) (py : Fin 32) (byte : Byte) : (rowPixels x0 py byte).Nodup := by
  refine (List.nodup_range.filter _).map_on fun j hj k hk same => ?_
  have j_lt := List.mem_range.mp (List.mem_of_mem_filter hj)
  have k_lt := List.mem_range.mp (List.mem_of_mem_filter hk)
  have column_eq := congrArg Fin.val (congrArg Prod.fst same)
  simp only [column_val] at column_eq
  omega

/-- The rows of a sprite of at most 32 rows are distinct. -/
theorem nodup_spritePixels (x0 : Fin 64) (y0 : Fin 32) (bytes : List Byte) (r : Nat) (h : r + bytes.length ≤ 32) :
    (spritePixels x0 y0 r bytes).Nodup := by
  induction bytes generalizing r with
  | nil => exact List.nodup_nil
  | cons byte bytes ih =>
    rw [List.length_cons] at h
    refine (nodup_rowPixels x0 (row y0 r) byte).append (ih (r + 1) (by omega)) fun ⟨px, py⟩ here later => ?_
    obtain ⟨rfl, _⟩ := mem_rowPixels.mp here
    obtain ⟨j, hj, laterRow⟩ := mem_spritePixels.mp later
    have row_eq := congrArg Fin.val (mem_rowPixels.mp laterRow).1
    simp only [row_val] at row_eq
    omega

/-! ## What a list of hits does to each pixel (R191, R193) -/

/-- Each pixel listed is toggled, and no other. -/
theorem pixel_hits {pixels : List (Fin 64 × Fin 32)} (distinct : pixels.Nodup) (b : Blit) (px : Fin 64) (py : Fin 32) :
    Framebuffer.pixel (b.hits pixels).fb px py = (Framebuffer.pixel b.fb px py ^^ decide ((px, py) ∈ pixels)) := by
  induction pixels generalizing b with
  | nil => simp [Blit.hits]
  | cons p pixels ih =>
    obtain ⟨notLater, distinct⟩ := List.nodup_cons.mp distinct
    have rest := ih distinct (b.hit p.1 p.2)
    rw [Blit.hit, pixel_toggle] at rest
    refine rest.trans ?_
    by_cases here : (px, py) = p
    · subst here
      simp [notLater]
    · have elsewhere : ¬ (px = p.1 ∧ py = p.2) := fun same => here (Prod.ext same.1 same.2)
      simp [here, elsewhere]

/-- A collision is a listed pixel that was 1 before all of them were hit: no hit changes a pixel hit later. -/
theorem collision_hits {pixels : List (Fin 64 × Fin 32)} (distinct : pixels.Nodup) (b : Blit) :
    (b.hits pixels).collision = true ↔
      b.collision = true ∨ ∃ px py, (px, py) ∈ pixels ∧ Framebuffer.pixel b.fb px py = true := by
  induction pixels generalizing b with
  | nil => simp [Blit.hits]
  | cons p pixels ih =>
    obtain ⟨notLater, distinct⟩ := List.nodup_cons.mp distinct
    have kept : ∀ px py, (px, py) ∈ pixels →
        Framebuffer.pixel (b.hit p.1 p.2).fb px py = Framebuffer.pixel b.fb px py := by
      intro px py later
      have elsewhere : ¬ (px = p.1 ∧ py = p.2) := by
        rintro ⟨rfl, rfl⟩
        exact notLater later
      simp [Blit.hit, pixel_toggle, elsewhere]
    refine (ih distinct (b.hit p.1 p.2)).trans ?_
    rw [Blit.hit, Bool.or_eq_true, or_assoc]
    refine or_congr_right ⟨?_, ?_⟩
    · rintro (here | ⟨px, py, later, set⟩)
      · exact ⟨p.1, p.2, List.mem_cons_self, here⟩
      · exact ⟨px, py, List.mem_cons_of_mem p later, (kept px py later).symm.trans set⟩
    · rintro ⟨px, py, listed, set⟩
      obtain rfl | later := List.mem_cons.mp listed
      · exact .inl set
      · exact .inr ⟨px, py, later, (kept px py later).trans set⟩

/-! ## A whole draw (R191 to R193) -/

/-- The pixels that `Dxyn` hits. -/
def coveredPixels (x y : Reg) (n : RowCount) (s : State) : List (Fin 64 × Fin 32) :=
  spritePixels (startColumn (s.readV x)) (startRow (s.readV y)) 0 (spriteBytes s n)

theorem drawnSprite_eq_hits (x y : Reg) (n : RowCount) (s : State) :
    drawnSprite x y n s = Blit.hits { fb := s.fb, collision := false } (coveredPixels x y n s) :=
  drawRows_eq_hits _ _ _ _ _

theorem nodup_coveredPixels (x y : Reg) (n : RowCount) (s : State) : (coveredPixels x y n s).Nodup := by
  apply nodup_spritePixels
  rw [length_spriteBytes]
  omega

theorem getElem_spriteBytes (s : State) (n : RowCount) {r : Nat} (h : r < (spriteBytes s n).length) :
    (spriteBytes s n)[r] = Memory.read s.mem (s.i.toNat + r) :=
  Memory.getElem_readBytes _ _ _ _ h

/-- The pixels hit are those that a set sprite bit lands on. -/
theorem mem_coveredPixels {px : Fin 64} {py : Fin 32} :
    (px, py) ∈ coveredPixels x y n s ↔ SpriteCovers s x y n px py := by
  simp only [coveredPixels, mem_spritePixels, mem_rowPixels, length_spriteBytes, SpriteCovers, Nat.zero_add]
  constructor
  · rintro ⟨r, hr, rfl, k, hk, set, rfl⟩
    rw [getElem_spriteBytes] at set
    exact ⟨r, k, hr, hk, set, rfl, rfl⟩
  · rintro ⟨r, k, hr, hk, set, hx, hy⟩
    refine ⟨r, hr, Fin.ext hy, k, hk, ?_, Fin.ext hx⟩
    rwa [getElem_spriteBytes]

theorem pixel_drawnSprite (x y : Reg) (n : RowCount) (s : State) (px : Fin 64) (py : Fin 32) :
    Framebuffer.pixel (drawnSprite x y n s).fb px py =
      (Framebuffer.pixel s.fb px py ^^ decide ((px, py) ∈ coveredPixels x y n s)) := by
  rw [drawnSprite_eq_hits, pixel_hits (nodup_coveredPixels x y n s)]

theorem collision_drawnSprite (x y : Reg) (n : RowCount) (s : State) :
    (drawnSprite x y n s).collision = true ↔
      ∃ px py, SpriteCovers s x y n px py ∧ Framebuffer.pixel s.fb px py = true := by
  simp [drawnSprite_eq_hits, collision_hits (nodup_coveredPixels x y n s), mem_coveredPixels]

theorem exec_drw_of_inRange (h : n.val = 0 ∨ s.i.toNat + n.val - 1 ≤ 0xFFF) (x y : Reg) :
    exec (.drw x y n) s = .next (State.writeV { s with fb := (drawnSprite x y n s).fb } 15
      (flagByte (drawnSprite x y n s).collision)) :=
  congrArg Host.Outcome.next (if_neg fun outside : OutOfRange s.i.toNat n.val => by omega)

theorem exec_drw_of_beyond (h : n.val ≠ 0 ∧ s.i.toNat + n.val - 1 > 0xFFF) (x y : Reg) :
    exec (.drw x y n) s = .next (s.raiseFault .memRange (.drw x y n)) :=
  congrArg Host.Outcome.next (if_pos ⟨Nat.pos_of_ne_zero h.1, h.2⟩)

theorem changesOnly_draw (s : State) (fb : Framebuffer) (flag : Byte) :
    ChangesOnly { regs := [15], display := true } s (State.writeV { s with fb := fb } 15 flag) :=
  changesOnly_display fb fun _ other => s.readV_writeV_other flag (List.ne_of_not_mem_cons other)

/-- Settles O21: the loop hits exactly the covered pixels, each once. -/
theorem drawTogglesExactlyTheCoveredPixels : Obligations.DrawTogglesExactlyTheCoveredPixels := by
  intro x y n s
  have word : patternXY (0xD000 + n.val) x y = encode (.drw x y n) := patternXY_eq_formXYN 0xD x y n
  refine ⟨decode_of_eq_encode word, fun inRange => ?_, fun beyond => ?_⟩
  · refine ⟨_, exec_drw_of_inRange inRange x y, fun px py covered => ?_, fun px py uncovered => ?_, fun hit => ?_,
      fun clear => ?_, changesOnly_draw s _ _⟩
    · simp [pixel_drawnSprite, mem_coveredPixels.mpr covered]
    · simp [pixel_drawnSprite, mt mem_coveredPixels.mp uncovered]
    · rw [State.readV_writeV_self, (collision_drawnSprite x y n s).mpr hit, flagByte_true]
    · have noCollision : (drawnSprite x y n s).collision = false := by
        rw [← Bool.not_eq_true, collision_drawnSprite]
        rintro ⟨px, py, covered, set⟩
        exact Bool.false_ne_true ((clear px py covered).symm.trans set)
      rw [State.readV_writeV_self, noCollision, flagByte_false]
  · exact ⟨_, exec_drw_of_beyond beyond x y, word ▸ raiseFault_faultTaken s .memRange (.drw x y n)⟩

/-! ## The same draw twice (R194) -/

/-- Where the sprite lands depends on memory, I, Vx and Vy alone, which a draw keeps when x and y are not F. -/
theorem spriteCovers_iff_of_frame (frame : ChangesOnly { regs := [15], display := true } s t) (hx : x ≠ 15)
    (hy : y ≠ 15) {px : Fin 64} {py : Fin 32} : SpriteCovers t x y n px py ↔ SpriteCovers s x y n px py := by
  have vx : t.readV x = s.readV x := frame.regs x (mt List.mem_singleton.mp hx)
  have vy : t.readV y = s.readV y := frame.regs y (mt List.mem_singleton.mp hy)
  have mem : ∀ a, Memory.read t.mem a = Memory.read s.mem a := fun a => frame.mem a (by simp)
  simp only [SpriteCovers, vx, vy, mem, frame.index rfl]

/-- A sprite that is not all zero covers a pixel. -/
theorem exists_spriteCovers {r : Nat} (hr : r < n.val) (nonzero : Memory.read s.mem (s.i.toNat + r) ≠ 0) :
    ∃ px py, SpriteCovers s x y n px py := by
  obtain ⟨k, hk, set⟩ : ∃ k < 8, (Memory.read s.mem (s.i.toNat + r)).getLsbD k = true := by
    by_contra! unset
    exact nonzero (BitVec.eq_of_getLsbD_eq fun k hk => by simpa using unset k hk)
  exact ⟨column (startColumn (s.readV x)) (7 - k), row (startRow (s.readV y)) r, r, 7 - k, hr, by omega,
    by rwa [show 7 - (7 - k) = k by omega], rfl, rfl⟩

/-- A sprite that is all zero covers no pixel. -/
theorem not_spriteCovers_of_zero (zero : ∀ r < n.val, Memory.read s.mem (s.i.toNat + r) = 0) (px : Fin 64)
    (py : Fin 32) : ¬ SpriteCovers s x y n px py := by
  rintro ⟨r, k, hr, _, set, _⟩
  simp [zero r hr] at set

/-- Settles O22: both draws toggle the same pixels (O21), so each is back, and on a clear display the second draw finds
1 in exactly the pixels covered. -/
theorem drawingTwiceRestoresTheDisplay : Obligations.DrawingTwiceRestoresTheDisplay := by
  intro x y n s hx hy inRange
  obtain ⟨t, first, toggled, kept, _, _, frame⟩ := (drawTogglesExactlyTheCoveredPixels x y n s).2.1 inRange
  rw [← frame.index rfl] at inRange
  obtain ⟨u, second, toggledBack, keptAgain, collides, misses, _⟩ :=
    (drawTogglesExactlyTheCoveredPixels x y n t).2.1 inRange
  simp only [spriteCovers_iff_of_frame frame hx hy] at toggledBack keptAgain collides misses
  refine ⟨t, u, first, second, fun px py => ?_, fun clear => ⟨?_, fun zero => misses fun px py covered => ?_⟩⟩
  · by_cases covered : SpriteCovers s x y n px py
    · rw [toggledBack px py covered, toggled px py covered, Bool.not_not]
    · rw [keptAgain px py covered, kept px py covered]
  · rintro ⟨r, hr, nonzero⟩
    obtain ⟨px, py, covered⟩ := exists_spriteCovers hr nonzero
    exact collides ⟨px, py, covered, by rw [toggled px py covered, clear, Bool.not_false]⟩
  · exact absurd covered (not_spriteCovers_of_zero zero px py)

end Sys2Proof.Machine
end

section
/-! SUPPORT. The timers (spec/45_timers.md R210 to R215): a write of them leaves the rest of the state, TICK counts down
to zero, and among the STEPs only those of `Fx15` and `Fx18` write them. -/

namespace Sys2Proof.Machine

variable {s t : State}

/-! ## What a write of the timers leaves unchanged (R211 to R213) -/

/-- Writing the timers, each as far as the footprint says so, changes nothing else. -/
theorem changesOnly_timers {dt st : Byte} {writesDt writesSt : Bool} (dtKept : writesDt = false → dt = s.dt)
    (stKept : writesSt = false → st = s.st) :
    ChangesOnly { dt := writesDt, st := writesSt } s { s with dt := dt, st := st } where
  regs _ _ := rfl
  index _ := rfl
  pc _ := rfl
  sp _ := rfl
  stack _ _ := rfl
  dt := dtKept
  st := stKept
  display _ _ _ := rfl
  keys _ _ := rfl
  faultRecord _ := ⟨rfl, rfl, rfl⟩
  randomInput _ := ⟨rfl, rfl⟩
  options := rfl
  mem _ _ := rfl

/-- Settles O23. -/
theorem timerInstructionsCopy : Obligations.TimerInstructionsCopy := fun x _ =>
  ⟨decode_of_eq_encode (patternX_eq_formXB 0xF x 0x07), decode_of_eq_encode (patternX_eq_formXB 0xF x 0x15),
    decode_of_eq_encode (patternX_eq_formXB 0xF x 0x18), sets_result rfl,
    ⟨_, rfl, rfl, changesOnly_timers nofun fun _ => rfl⟩, ⟨_, rfl, rfl, changesOnly_timers (fun _ => rfl) nofun⟩⟩

/-! ## TICK (R213) -/

/-- Counting down is subtraction that stops at 0, which is subtraction of natural numbers. -/
theorem countDown_toNat (b : Byte) : (countDown b).toNat = b.toNat - 1 := by
  by_cases zero : b = 0
  · rw [countDown, if_pos zero, zero]; rfl
  · have positive : 1 ≤ b.toNat := Nat.pos_of_ne_zero fun h => zero (BitVec.eq_of_toNat_eq h)
    rw [countDown, if_neg zero]
    exact BitVec.toNat_sub_of_le positive

/-- Settles O47. -/
theorem tickCountsDownToZero : Obligations.TickCountsDownToZero := fun s =>
  ⟨s.tick, rfl, countDown_toNat s.dt, countDown_toNat s.st, changesOnly_timers nofun nofun⟩

/-! ## Runs of STEPs (R215) -/

/-- A step that executes no instruction writes neither timer. -/
theorem step_executes_or_keeps_timers (h : step s = .next t) :
    (∃ i, s.Executes i ∧ Effect s.afterFetch i t) ∨ (t.dt = s.dt ∧ t.st = s.st) := by
  rcases step_cases s with ⟨_, e, _⟩ | ⟨_, _, e, _⟩ | ⟨_, _, _, e, _⟩ | ⟨hh, hf, i, hd, e, _⟩
  case inr.inr.inr => exact .inl ⟨i, (executes_iff s i).mpr ⟨hh, hf, hd⟩, exec_effect (e.symm.trans h)⟩
  all_goals cases e.symm.trans h; exact .inr ⟨rfl, rfl⟩

theorem step_delayTimer_written (h : step s = .next t) (hd : t.dt ≠ s.dt) : ∃ x, s.Executes (.ldDtVx x) := by
  obtain ⟨i, executed, effect⟩ | ⟨kept, _⟩ := step_executes_or_keeps_timers h
  · obtain ⟨x, rfl⟩ := effect.delayTimer_written hd
    exact ⟨x, executed⟩
  · exact absurd kept hd

theorem step_soundTimer_written (h : step s = .next t) (hs : t.st ≠ s.st) : ∃ x, s.Executes (.ldStVx x) := by
  obtain ⟨i, executed, effect⟩ | ⟨_, kept⟩ := step_executes_or_keeps_timers h
  · obtain ⟨x, rfl⟩ := effect.soundTimer_written hs
    exact ⟨x, executed⟩
  · exact absurd kept hs

/-- A part of the state that a step changes only by executing one of certain instructions keeps its value over every run
that executes none of them. -/
theorem StepRun.keeps_unless_written {α : Type} {part : State → α} {writer : Reg → Instr}
    (written : ∀ {s t : State}, step s = .next t → part t ≠ part s → ∃ x, s.Executes (writer x))
    {run : Nat → State} {k : Nat} (steps : StepRun run k)
    (never : ∀ j, j < k → ∀ x, ¬ (run j).Executes (writer x)) : part (run k) = part (run 0) := by
  induction k with
  | zero => rfl
  | succ k ih =>
    have before : part (run k) = part (run 0) :=
      ih (fun j hj => steps j (Nat.lt_succ_of_lt hj)) (fun j hj => never j (Nat.lt_succ_of_lt hj))
    have last : part (run (k + 1)) = part (run k) := by
      by_contra changed
      obtain ⟨x, executed⟩ := written (steps k k.lt_succ_self) changed
      exact never k k.lt_succ_self x executed
    exact last.trans before

/-- Settles O43: of each timer, a step changes it only by executing its own instruction. -/
theorem stepsLeaveTimersAlone : Obligations.StepsLeaveTimersAlone := fun _ _ steps =>
  ⟨steps.keeps_unless_written step_delayTimer_written, steps.keeps_unless_written step_soundTimer_written⟩

end Sys2Proof.Machine
end

section
/-! SUPPORT. The keypad (spec/46_keypad.md R220 to R224): a skip on a key tests the bit that Vx selects, the key wait is
one function of the pressed keys, and the key commands write the keypad alone. -/

namespace Sys2Proof.Machine

variable {s : State} {i : Instr}

/-! ## The skips on a key (R220, R221) -/

/-- A register that holds a key number reads that key. -/
theorem keyState_of_toNat_eq {b : Byte} {k : Key} (number : b.toNat = k.val) : keyState s b = some s.key[k] := by
  have inRange : b.toNat < 16 := number ▸ k.isLt
  rw [keyState_of_lt inRange]
  simp only [number, Fin.getElem_fin]

/-- A skip on a bit moves PC over one word under what sets the bit, and leaves PC under what clears it (R128). -/
theorem skips_on {c : Bool} {p q : Prop} (h : exec i s = .next (s.skipIf c)) (sets : p → c = true)
    (clears : q → c = false) :
    ∃ t, exec i s = .next t ∧ ChangesOnly { pc := true } s t ∧ (p → t.pc = s.pc + 2) ∧ (q → t.pc = s.pc) := by
  refine ⟨_, h, changesOnly_skipIf s c, fun hp => ?_, fun hq => ?_⟩
  · rw [State.skipIf_pc, sets hp, if_pos rfl]
  · rw [State.skipIf_pc, clears hq, if_neg Bool.false_ne_true]

/-- Settles O24: a Vx that is a key number selects the bit to skip on; a Vx above 15 selects none. -/
theorem keySkipsTestTheKeyInVx : Obligations.KeySkipsTestTheKeyInVx := by
  intro x s
  have skpWord : patternX 0xE09E x = encode (.skp x) := patternX_eq_formXB 0xE x 0x9E
  have sknpWord : patternX 0xE0A1 x = encode (.sknp x) := patternX_eq_formXB 0xE x 0xA1
  refine ⟨decode_of_eq_encode skpWord, decode_of_eq_encode sknpWord, fun k number => ?_, fun above => ?_⟩
  · have selected : keyState s (s.readV x) = some s.key[k] := keyState_of_toNat_eq number
    exact ⟨skips_on (execSkp_of_key selected) id id,
      skips_on (execSknp_of_key selected) (congrArg not) (congrArg not)⟩
  · have noKey : keyState s (s.readV x) = none := keyState_of_ge above
    rw [skpWord, sknpWord]
    exact ⟨⟨_, execSkp_of_no_key noKey, raiseFault_faultTaken s .keyRange (.skp x)⟩,
      ⟨_, execSknp_of_no_key noKey, raiseFault_faultTaken s .keyRange (.sknp x)⟩⟩

/-! ## The key wait (R222) -/

/-- KEY_SELECT as a function of the keypad alone (R6, R222). With no key pressed there is none to select and the value,
key 0, is never used. -/
def selectedKey (key : Vector Bool 16) : Key :=
  match pressedKeys key with
  | [] => 0
  | k :: ks => keySelect key k ks

theorem selectedKey_of_cons {key : Vector Bool 16} {k : Key} {ks : List Key} (h : pressedKeys key = k :: ks) :
    selectedKey key = keySelect key k ks := by
  simp only [selectedKey, h]

theorem pressedKeys_eq_nil {key : Vector Bool 16} (h : ∀ k : Key, key[k] = false) : pressedKeys key = [] :=
  List.eq_nil_iff_forall_not_mem.mpr fun k listed =>
    Bool.false_ne_true ((h k).symm.trans (mem_pressedKeys.mp listed))

theorem pressedKeys_eq_cons {key : Vector Bool 16} (h : ∃ k : Key, key[k] = true) :
    ∃ k ks, pressedKeys key = k :: ks :=
  have ⟨_, pressed⟩ := h
  List.exists_cons_of_ne_nil (List.ne_nil_of_mem (mem_pressedKeys.mpr pressed))

/-- The key selected is pressed whenever one is. -/
theorem selectedKey_pressed {key : Vector Bool 16} (h : ∃ k : Key, key[k] = true) : key[selectedKey key] = true := by
  obtain ⟨k, ks, listed⟩ := pressedKeys_eq_cons h
  have selected : selectedKey key ∈ pressedKeys key := by
    rw [selectedKey_of_cons listed, listed]
    exact keySelect_mem key k ks
  exact mem_pressedKeys.mp selected

/-- With a key pressed, the key wait writes the number of the selected key to Vx. -/
theorem execLdVxK_of_pressed (h : ∃ k : Key, s.key[k] = true) (x : Reg) :
    execLdVxK x s = .next (s.writeV x (BitVec.ofNat 8 (selectedKey s.key).val)) := by
  obtain ⟨k, ks, listed⟩ := pressedKeys_eq_cons h
  rw [execLdVxK_of_some listed, selectedKey_of_cons listed]

theorem changesOnly_rewind (s : State) : ChangesOnly { pc := true } s s.rewind :=
  changesOnly_jumpTo s (s.pc - 2)

/-- A key number fits in a byte. -/
theorem keyByte_toNat (k : Key) : (BitVec.ofNat 8 k.val).toNat = k.val :=
  Nat.mod_eq_of_lt (k.isLt.trans (by decide))

/-- Settles O25: the function is `selectedKey`. -/
theorem keyWaitRewindsOrSelectsAPressedKey : Obligations.KeyWaitRewindsOrSelectsAPressedKey := by
  refine ⟨selectedKey, fun _ => selectedKey_pressed, fun x s =>
    ⟨decode_of_eq_encode (patternX_eq_formXB 0xF x 0x0A), fun nonePressed => ?_, fun onePressed => ?_⟩⟩
  · exact ⟨_, execLdVxK_of_none (pressedKeys_eq_nil nonePressed), rfl, changesOnly_rewind s⟩
  · obtain ⟨t, ht, value, frame⟩ := sets_result (i := .ldVxK x) (execLdVxK_of_pressed onePressed x)
    exact ⟨t, ht, value ▸ keyByte_toNat _, frame⟩

/-! ## The key commands (R223, R224) -/

/-- Writing the keypad changes nothing else. -/
theorem changesOnly_keypad (s : State) (key : Vector Bool 16) :
    ChangesOnly { keys := true } s { s with key := key } where
  regs _ _ := rfl
  index _ := rfl
  pc _ := rfl
  sp _ := rfl
  stack _ _ := rfl
  dt _ := rfl
  st _ := rfl
  display _ _ _ := rfl
  keys := nofun
  faultRecord _ := ⟨rfl, rfl, rfl⟩
  randomInput _ := ⟨rfl, rfl⟩
  options := rfl
  mem _ _ := rfl

theorem getElem_key_setKey_self (s : State) (k : Key) (p : Bool) : (s.setKey k p).key[k] = p :=
  Vector.getElem_set_self k.isLt

theorem getElem_key_setKey_other (s : State) {j k : Key} (p : Bool) (h : j ≠ k) :
    (s.setKey k p).key[j] = s.key[j] :=
  Vector.getElem_set_ne k.isLt j.isLt (Fin.val_ne_of_ne h.symm)

theorem getElem_key_clearKeys (s : State) (k : Key) : s.clearKeys.key[k] = false :=
  Vector.getElem_replicate k.isLt

/-- Settles O48. -/
theorem keyCommandsSetTheKeypad : Obligations.KeyCommandsSetTheKeypad := fun s =>
  ⟨fun k p => ⟨s.setKey k p, rfl, getElem_key_setKey_self s k p, fun _ => getElem_key_setKey_other s p,
      changesOnly_keypad s _⟩,
    s.clearKeys, rfl, getElem_key_clearKeys s, changesOnly_keypad s _⟩

end Sys2Proof.Machine
end

section
/-! SUPPORT. The fault codes (spec/60_exceptions.md R241): the condition under which each instruction raises its fault,
and the fault code of a step from it. -/

namespace Sys2Proof.Machine

variable {s t : State} {i : Instr} {c : FaultCode}

/-! ## The cause of an instruction's fault (R241) -/

/-- The condition under which an instruction raises its fault, `possibleFault` (R241). -/
def FaultCause (s : State) : Instr → Prop
  | .call _ => s.sp.val = 16
  | .ret => s.sp.val = 0
  | .drw _ _ n => n.val ≥ 1 ∧ s.i.toNat + n.val - 1 > 0xFFF
  | .ldB _ => s.i.toNat + 2 > 0xFFF
  | .storeRegs x | .loadRegs x => s.i.toNat + x.val > 0xFFF
  | .skp x | .sknp x => (s.readV x).toNat > 15
  | _ => False

/-- The two outcomes of an instruction as far as the fault code goes: the fault it lists, under its cause, or the code
kept. -/
def FaultsByCause (s : State) (i : Instr) (t : State) : Prop :=
  FaultCause s i ∧ t.faultCode = possibleFault i ∨ ¬ FaultCause s i ∧ t.faultCode = s.faultCode

theorem checkedAccess_faultsByCause {n : Nat} {next : State} (cause : FaultCause s i ↔ OutOfRange s.i.toNat n)
    (listed : possibleFault i = .memRange) (kept : next.faultCode = s.faultCode) :
    FaultsByCause s i (s.checkedAccess i n next) := by
  rcases checkedAccess_cases s i n next with ⟨outside, e⟩ | ⟨inside, e⟩ <;> rw [e]
  · exact .inl ⟨cause.mpr outside, listed.symm⟩
  · exact .inr ⟨mt cause.mp inside, kept⟩

/-- A transfer of `n + 1` bytes is out of range by its last address (R10). -/
theorem outOfRange_succ_iff {a n : Nat} : a + n > 0xFFF ↔ OutOfRange a (n + 1) := by
  unfold OutOfRange
  omega

/-- Vx selects no key exactly when it is above 15 (R220, R221). -/
theorem keyState_eq_none_iff {k : Byte} : keyState s k = none ↔ k.toNat > 15 := by
  refine ⟨fun none => ?_, keyState_of_ge⟩
  by_contra! inRange
  rw [keyState_of_lt (Nat.lt_succ_of_le inRange)] at none
  cases none

/-- A skip on a key faults exactly when Vx selects none. -/
theorem keySkip_faultsByCause {x : Reg} {skips : Bool → Bool} (cause : FaultCause s i ↔ (s.readV x).toNat > 15)
    (listed : possibleFault i = .keyRange)
    (noKey : keyState s (s.readV x) = none → exec i s = .next (s.raiseFault .keyRange i))
    (key : ∀ p, keyState s (s.readV x) = some p → exec i s = .next (s.skipIf (skips p)))
    (h : exec i s = .next t) : FaultsByCause s i t := by
  rw [← keyState_eq_none_iff (s := s)] at cause
  cases hk : keyState s (s.readV x) with
  | none =>
    obtain rfl := Host.Outcome.next.inj ((noKey hk).symm.trans h)
    exact .inl ⟨cause.mpr hk, listed.symm⟩
  | some p =>
    obtain rfl := Host.Outcome.next.inj ((key p hk).symm.trans h)
    exact .inr ⟨fun raised => Option.some_ne_none p (hk.symm.trans (cause.mp raised)), rfl⟩

/-- Every meaning raises its fault under its cause and keeps the fault code otherwise. -/
theorem exec_faultsByCause (h : exec i s = .next t) : FaultsByCause s i t := by
  cases i
  case call nnn =>
    by_cases room : s.sp.val < 16
    · cases (execCall_of_room nnn room).symm.trans h; exact .inr ⟨room.ne, rfl⟩
    · cases (execCall_of_full nnn room).symm.trans h
      exact .inl ⟨Nat.le_antisymm (Nat.le_of_lt_succ s.sp.isLt) (Nat.le_of_not_lt room), rfl⟩
  case ret =>
    by_cases entry : 0 < s.sp.val
    · cases (execRet_of_entry entry).symm.trans h; exact .inr ⟨entry.ne', rfl⟩
    · cases (execRet_of_empty entry).symm.trans h; exact .inl ⟨Nat.eq_zero_of_not_pos entry, rfl⟩
  case drw => cases h; exact checkedAccess_faultsByCause Iff.rfl rfl rfl
  case ldB => cases h; exact checkedAccess_faultsByCause outOfRange_succ_iff rfl rfl
  case storeRegs => cases h; exact checkedAccess_faultsByCause outOfRange_succ_iff rfl rfl
  case loadRegs => cases h; exact checkedAccess_faultsByCause outOfRange_succ_iff rfl rfl
  case skp => exact keySkip_faultsByCause Iff.rfl rfl execSkp_of_no_key (fun _ => execSkp_of_key) h
  case sknp => exact keySkip_faultsByCause Iff.rfl rfl execSknp_of_no_key (fun _ => execSknp_of_key) h
  case ldVxK =>
    cases hk : pressedKeys s.key with
    | nil => cases (execLdVxK_of_none hk).symm.trans h; exact .inr ⟨id, rfl⟩
    | cons => cases (execLdVxK_of_some hk).symm.trans h; exact .inr ⟨id, rfl⟩
  all_goals cases h; exact .inr ⟨id, rfl⟩

/-- Fetch writes nothing that a cause reads. -/
theorem faultCause_afterFetch : FaultCause s.afterFetch i ↔ FaultCause s i := by
  cases i <;> rfl

/-! ## The fault code after a step -/

/-- The instruction at PC is executed and raises the fault `c`. -/
def State.Raises (s : State) (c : FaultCode) : Prop := ∃ i, s.Executes i ∧ FaultCause s i ∧ possibleFault i = c

/-- A step executes at most one instruction. -/
theorem State.Executes.raises_iff (h : s.Executes i) : s.Raises c ↔ FaultCause s i ∧ possibleFault i = c := by
  refine ⟨?_, fun raised => ⟨i, h, raised⟩⟩
  rintro ⟨j, ⟨_, _, hj⟩, raised⟩
  obtain ⟨_, _, hi⟩ := h
  cases hi.symm.trans hj
  exact raised

/-- A step from a running state ends with the fault `c` exactly when the fetch check fails, for FETCH_RANGE, or when the
instruction executed raises it (R107). -/
theorem step_faultCode_iff (running : s.faultCode = .none) (ht : step s = .next t) (hc : c ≠ .none) :
    t.faultCode = c ↔ (s.FetchFails ∧ c = .fetchRange) ∨ s.Raises c := by
  rcases step_cases s with ⟨hh, _⟩ | ⟨_, hf, e, _⟩ | ⟨_, hf, ⟨_, hd⟩, e, _⟩ | ⟨hh, hf, i, hd, e, _⟩
  · exact absurd running hh
  · cases e.symm.trans ht
    have idle : ¬ s.Raises c := fun ⟨i, executed, _⟩ => ((executes_iff s i).mp executed).2.1 hf
    rw [or_iff_left idle, and_iff_right hf]
    exact eq_comm
  · cases e.symm.trans ht
    have idle : ¬ s.Raises c := fun ⟨i, executed, _⟩ => by
      cases hd.symm.trans ((executes_iff s i).mp executed).2.2
    simp [hf, idle, running, hc.symm]
  · have executed : s.Executes i := (executes_iff s i).mpr ⟨hh, hf, hd⟩
    rw [executed.raises_iff, ← faultCause_afterFetch]
    rcases exec_faultsByCause (e.symm.trans ht) with ⟨cause, code⟩ | ⟨noCause, kept⟩
    · simp [hf, cause, code]
    · simp [hf, noCause, kept, running, hc.symm]

/-- FETCH_RANGE is the fault of no instruction. -/
theorem not_raises_fetchRange : ¬ s.Raises .fetchRange := by
  rintro ⟨i, _, _, listed⟩
  cases i <;> cases listed

theorem step_fetchRange_iff (running : s.faultCode = .none) (ht : step s = .next t) :
    t.faultCode = .fetchRange ↔ s.pc.toNat > 0xFFE := by
  simp [step_faultCode_iff running ht, not_raises_fetchRange, fetchFails_iff]

/-- Every fault but FETCH_RANGE is one that the instruction executed raises. -/
theorem step_faultCode_iff_raises (running : s.faultCode = .none) (ht : step s = .next t) (hc : c ≠ .none)
    (other : c ≠ .fetchRange) : t.faultCode = c ↔ s.Raises c := by
  simp [step_faultCode_iff running ht hc, other]

/-! ## The instructions that raise each code (R241) -/

theorem raises_stackOverflow_iff : s.Raises .stackOverflow ↔ ∃ nnn, s.Executes (.call nnn) ∧ s.sp.val = 16 := by
  constructor
  · rintro ⟨i, executed, cause, listed⟩
    cases i <;> cases listed
    exact ⟨_, executed, cause⟩
  · rintro ⟨nnn, executed, full⟩
    exact ⟨.call nnn, executed, full, rfl⟩

theorem raises_stackUnderflow_iff : s.Raises .stackUnderflow ↔ s.Executes .ret ∧ s.sp.val = 0 := by
  constructor
  · rintro ⟨i, executed, cause, listed⟩
    cases i <;> cases listed
    exact ⟨executed, cause⟩
  · rintro ⟨executed, empty⟩
    exact ⟨.ret, executed, empty, rfl⟩

theorem raises_memRange_iff : s.Raises .memRange ↔
    (∃ x y n, s.Executes (.drw x y n) ∧ n.val ≥ 1 ∧ s.i.toNat + n.val - 1 > 0xFFF) ∨
    (∃ x, s.Executes (.ldB x) ∧ s.i.toNat + 2 > 0xFFF) ∨
    (∃ x, (s.Executes (.storeRegs x) ∨ s.Executes (.loadRegs x)) ∧ s.i.toNat + x.val > 0xFFF) := by
  constructor
  · rintro ⟨i, executed, cause, listed⟩
    cases i
    case drw x y n => exact .inl ⟨x, y, n, executed, cause⟩
    case ldB x => exact .inr (.inl ⟨x, executed, cause⟩)
    case storeRegs x => exact .inr (.inr ⟨x, .inl executed, cause⟩)
    case loadRegs x => exact .inr (.inr ⟨x, .inr executed, cause⟩)
    all_goals cases listed
  · rintro (⟨x, y, n, executed, outside⟩ | ⟨x, executed, outside⟩ | ⟨x, executed | executed, outside⟩)
    · exact ⟨.drw x y n, executed, outside, rfl⟩
    · exact ⟨.ldB x, executed, outside, rfl⟩
    · exact ⟨.storeRegs x, executed, outside, rfl⟩
    · exact ⟨.loadRegs x, executed, outside, rfl⟩

theorem raises_keyRange_iff :
    s.Raises .keyRange ↔ ∃ x, (s.Executes (.skp x) ∨ s.Executes (.sknp x)) ∧ (s.readV x).toNat > 15 := by
  constructor
  · rintro ⟨i, executed, cause, listed⟩
    cases i
    case skp x => exact ⟨x, .inl executed, cause⟩
    case sknp x => exact ⟨x, .inr executed, cause⟩
    all_goals cases listed
  · rintro ⟨x, executed | executed, above⟩
    · exact ⟨.skp x, executed, above, rfl⟩
    · exact ⟨.sknp x, executed, above, rfl⟩

/-- Settles O31: FETCH_RANGE by the fetch check, every other code by the instructions that raise it. -/
theorem faultCodesHaveExactlyTheirCauses : Obligations.FaultCodesHaveExactlyTheirCauses := by
  refine ⟨⟨rfl, rfl, rfl, rfl, rfl, rfl⟩, fun s t running ht => ?_⟩
  have raised (c : FaultCode) (hc : c ≠ .none) (other : c ≠ .fetchRange) : t.faultCode = c ↔ s.Raises c :=
    step_faultCode_iff_raises running ht hc other
  exact ⟨(raised .stackOverflow nofun nofun).trans raises_stackOverflow_iff,
    (raised .stackUnderflow nofun nofun).trans raises_stackUnderflow_iff, step_fetchRange_iff running ht,
    (raised .memRange nofun nofun).trans raises_memRange_iff,
    (raised .keyRange nofun nofun).trans raises_keyRange_iff⟩

end Sys2Proof.Machine
end
